-- ==== Sys2Proof/Word.lean ====
section
/-! DEFINITION. Word.lean: the value types of 00_scope.md R9 and R11. A `Word` and a `Block` are byte sequences and are
never read as wider integers (20_memory.md R47), so they are vectors of bytes; a `Word32` is a value of the command port. -/

namespace Sys2Proof

/-- R9: an unsigned 8-bit value. -/
abbrev Byte := BitVec 8

/-- R9: an unsigned 32-bit value. Only the command descriptor uses it. -/
abbrev Word32 := BitVec 32

/-- R9: a sequence of 4 bytes, `w[0]` the first byte. -/
abbrev Word := Vector Byte 4

/-- R9, R11: a sequence of 16 bytes; as a state matrix, row `r` and column `c` is byte `r + 4*c`. -/
abbrev Block := Vector Byte 16

/-- 10_state.md R25: the round-key schedule, 60 words. -/
abbrev Schedule := Vector Word 60

/-- 30_encoding.md R70: the command descriptor, three port words. -/
structure Descriptor where
  cmd : Word32
  a : Word32
  b : Word32
deriving DecidableEq, Repr

/-- The word of four zero bytes. -/
def Word.zero : Word := Vector.ofFn fun _ => 0

/-- The block of sixteen zero bytes. -/
def Block.zero : Block := Vector.ofFn fun _ => 0

/-- Bytewise XOR of two words. -/
def Word.xor (x y : Word) : Word := Vector.ofFn fun k => x[k] ^^^ y[k]

/-- Bytewise XOR of two blocks. -/
def Block.xor (x y : Block) : Block := Vector.ofFn fun k => x[k] ^^^ y[k]

end Sys2Proof
end

