-- ==== Sys2Proof/Syntax.lean ====
section
/-! DEFINITION. Syntax.lean: one constructor per row of spec/opcode_table.json. -/

namespace Sys2Proof

/-- The instructions: the three host commands (30_encoding.md R71, R72) and the seven micro-ops (R81). -/
inductive Instr where
  /-- INIT: `ksz` is KSZ, `a` the key address, `b` the IV address. -/
  | init (ksz : BitVec 2) (a b : Word32)
  /-- ENC: `a` is the buffer address, `len` the buffer length in bytes. -/
  | enc (a len : Word32)
  /-- DEC: `a` is the buffer address, `len` the buffer length in bytes. -/
  | dec (a len : Word32)
  /-- ARK r: AddRoundKey with round key `r`. -/
  | ark (r : BitVec 4)
  /-- SB: SubBytes. -/
  | sb
  /-- SR: ShiftRows. -/
  | sr
  /-- MC: MixColumns. -/
  | mc
  /-- ISB: InvSubBytes. -/
  | isb
  /-- ISR: InvShiftRows. -/
  | isr
  /-- IMC: InvMixColumns. -/
  | imc
deriving DecidableEq, Repr

end Sys2Proof
end

