-- ==== Sys2Proof/WellFormed.lean ====
section
/-! DEFINITION. WellFormed.lean: which instructions the encoding admits. Every KSZ decodes (30_encoding.md R76: KSZ = 3 is
rejected at execution), every operand word is legal (R74); `ARK 15` is ill-formed for every NR (R82). `ARK r` with
`NR < r` depends on the state and is refused by its meaning. -/

namespace Sys2Proof

/-- 30_encoding.md R82: no round index of 15. -/
def Instr.wellFormed : Instr → Bool
  | .init _ _ _ => true
  | .enc _ _ => true
  | .dec _ _ => true
  | .ark r => r != 15
  | .sb => true
  | .sr => true
  | .mc => true
  | .isb => true
  | .isr => true
  | .imc => true

end Sys2Proof
end

