-- ==== Sys2Proof/Decode.lean ====
section
/-! DEFINITION. Decode.lean: the decoders of 30_encoding.md R76 (commands) and R81, R82 (micro-ops), total and rejecting by
name, and then the encoder. -/

namespace Sys2Proof

/-- Why an encoding is no instruction. The first three make a command `ILLEGAL` (R75, R76); the last three are
ill-formed micro-ops (R82). -/
inductive Reject where
  /-- `CMD[31:6] ≠ 0`. -/
  | reservedBits
  /-- `OP` is none of 1, 2, 3. -/
  | reservedOp
  /-- `KSZ ≠ 0` on ENC or DEC. -/
  | keySizeBits
  /-- `CLS` is 7 to 15. -/
  | reservedClass
  /-- `RND ≠ 0` with `CLS` 1 to 6. -/
  | roundBits
  /-- `ARK 15`. -/
  | roundKeyFifteen
deriving DecidableEq, Repr

/-- What a decoder answers. -/
inductive Decoded where
  | instr (i : Instr)
  | rejected (r : Reject)
deriving DecidableEq, Repr

/-- What an instruction is encoded as: a descriptor of three words (R70), or a micro-op byte (R80). -/
inductive Code where
  | command (d : Descriptor)
  | microOp (u : Byte)
deriving DecidableEq, Repr

/-- R71: `OP = CMD[3:0]`. -/
def opField (cmd : Word32) : BitVec 4 := cmd.extractLsb' 0 4

/-- R71: `KSZ = CMD[5:4]`. -/
def kszField (cmd : Word32) : BitVec 2 := cmd.extractLsb' 4 2

/-- R71: `RSV = CMD[31:6]`. -/
def rsvField (cmd : Word32) : BitVec 26 := cmd.extractLsb' 6 26

/-- R81: `CLS = UOP[7:4]`. -/
def clsField (u : Byte) : BitVec 4 := u.extractLsb' 4 4

/-- R81: `RND = UOP[3:0]`. -/
def rndField (u : Byte) : BitVec 4 := u.extractLsb' 0 4

/-- R76. `A` and `B` take no part in the decision. -/
def decodeCommand (d : Descriptor) : Decoded :=
  if rsvField d.cmd ≠ 0 then .rejected .reservedBits
  else if opField d.cmd = 1 then .instr (.init (kszField d.cmd) d.a d.b)
  else if opField d.cmd = 2 then
    if kszField d.cmd = 0 then .instr (.enc d.a d.b) else .rejected .keySizeBits
  else if opField d.cmd = 3 then
    if kszField d.cmd = 0 then .instr (.dec d.a d.b) else .rejected .keySizeBits
  else .rejected .reservedOp

/-- R81: the micro-op of a class other than ARK; `none` for the reserved classes. -/
def plainMicroOp (cls : BitVec 4) : Option Instr :=
  if cls = 1 then some .sb
  else if cls = 2 then some .sr
  else if cls = 3 then some .mc
  else if cls = 4 then some .isb
  else if cls = 5 then some .isr
  else if cls = 6 then some .imc
  else none

/-- R81, R82. -/
def decodeMicroOp (u : Byte) : Decoded :=
  if clsField u = 0 then
    if rndField u = 15 then .rejected .roundKeyFifteen else .instr (.ark (rndField u))
  else
    match plainMicroOp (clsField u) with
    | none => .rejected .reservedClass
    | some i => if rndField u = 0 then .instr i else .rejected .roundBits

/-- The decoder of either encoding. -/
def decode : Code → Decoded
  | .command d => decodeCommand d
  | .microOp u => decodeMicroOp u

/-- R71, R77: a CMD word from its fields. -/
def cmdWord (ksz : BitVec 2) (op : BitVec 4) : Word32 := 0#26 ++ ksz ++ op

/-- R81: a micro-op byte from its fields. -/
def uopByte (cls rnd : BitVec 4) : Byte := cls ++ rnd

/-- The encoder, from the tables of R77 and R81. -/
def encode : Instr → Code
  | .init ksz a b => .command ⟨cmdWord ksz 1, a, b⟩
  | .enc a len => .command ⟨cmdWord 0 2, a, len⟩
  | .dec a len => .command ⟨cmdWord 0 3, a, len⟩
  | .ark r => .microOp (uopByte 0 r)
  | .sb => .microOp (uopByte 1 0)
  | .sr => .microOp (uopByte 2 0)
  | .mc => .microOp (uopByte 3 0)
  | .isb => .microOp (uopByte 4 0)
  | .isr => .microOp (uopByte 5 0)
  | .imc => .microOp (uopByte 6 0)

/-- The code whose bits are `w`, numbered as spec/opcode_table.json numbers them: a row of 8 bits is a micro-op byte,
any other row a descriptor with CMD in bits 31..0, A in bits 63..32 and B in bits 95..64 (log 15). -/
def tableCode (nbits w : Nat) : Code :=
  if nbits = 8 then .microOp (BitVec.ofNat 8 w)
  else .command ⟨BitVec.ofNat 32 w, BitVec.ofNat 32 (w >>> 32), BitVec.ofNat 32 (w >>> 64)⟩

/-- The instruction the decoder reads from a row's bits; `none` where it rejects them. -/
def decodeTableWord (nbits w : Nat) : Option Instr :=
  match decode (tableCode nbits w) with
  | .instr i => some i
  | .rejected _ => none

end Sys2Proof
end

