-- ==== Sys2Proof/Machine/Gf.lean ====
section
/-! DEFINITION. Machine/Gf.lean: arithmetic in GF(2^8) (40_gf256.md). -/

namespace Sys2Proof.Machine

/-- R100: doubling, reduced by 0x1B when the top bit was set. -/
def xtime (b : Byte) : Byte := if b.getLsbD 7 then (b <<< 1) ^^^ 0x1b else b <<< 1

/-- R102: addition. -/
def gadd (a b : Byte) : Byte := a ^^^ b

/-- R103: the loop of `gmul` from bit `8 - n` on, with `p` the doubled operand. -/
def gmulFrom : Nat → Byte → Byte → Byte → Byte
  | 0, _, _, acc => acc
  | n + 1, p, k, acc => gmulFrom n (xtime p) (k >>> 1) (if k.getLsbD 0 then gadd acc p else acc)

/-- R103: multiply by a constant, repeated doubling and conditional XOR over the 8 bits of `k`. -/
def gmul (a k : Byte) : Byte := gmulFrom 8 a k 0x00

end Sys2Proof.Machine
end

