-- ==== Sys2Proof/Config.lean ====
section
/-! DEFINITION. Config.lean: what an implementation fixes (00_scope.md R7, R8) and the free values (log 16). -/

namespace Sys2Proof

/-- 00_scope.md R7: the three AES key sizes, named by `Nk`, the key length in words. -/
inductive KeySize where
  | nk4
  | nk6
  | nk8
deriving DecidableEq, Repr, Inhabited

/-- A run of data-memory addresses: `size` bytes from `base`. -/
structure Region where
  base : Nat
  size : Nat
deriving DecidableEq, Repr

/-- 00_scope.md R8: the parameters the spec leaves open, as plain data (log 8). `holes` is the complement of
`DMEM_ADMITS` inside the address space: every predicate on finitely many addresses is such a list. -/
structure Params where
  addrWidth : Nat
  holes : List Region
deriving DecidableEq, Repr

/-- 00_scope.md R8: the defaults: 32 address bits, every address of the space admitted. -/
def Params.default : Params := { addrWidth := 32, holes := [] }

/-- 00_scope.md R8: `ADDR_WIDTH` is 1 to 32. -/
abbrev Params.wf (p : Params) : Prop := 1 ≤ p.addrWidth ∧ p.addrWidth ≤ 32

/-- 00_scope.md R8, 46_padding_host.md R211: the host's padding of an already aligned plaintext. -/
inductive PadPolicy where
  | fullBlock
  | none
deriving DecidableEq, Repr

/-- The free bytes (log 16): what an unspecified byte holds. No body: nothing can be proved of a value. -/
opaque Config.freeByte : Nat → Byte

/-- The free key sizes (log 16): what an unspecified `NK` holds; always one of 4, 6, 8 (10_state.md R23). -/
opaque Config.freeKeySize : Nat → KeySize

end Sys2Proof
end

