-- ==== Sys2Proof/Machine/State.lean ====
section
/-! DEFINITION. Machine/State.lean: the state of one core instance (10_state.md R21), its data memory (20_memory.md R46),
what its host does next, and the state after reset (R37). All of it is plain data. -/

namespace Sys2Proof.Machine

/-- 10_state.md R30. -/
inductive Phase where
  | idle
  | busy
deriving DecidableEq, Repr

/-- 10_state.md R33 (log 19): the sequencer's position: `blk` is the block in progress, `step` the micro-op in progress in the
microprogram. -/
structure SeqPos where
  blk : Nat
  step : Nat
deriving DecidableEq, Repr

/-- DMEM (20_memory.md R46): address and byte pairs, addresses strictly rising, no byte equal to what an unlisted
address reads as. -/
abbrev Memory := List Host.Cell

/-- What the environment does next, in order (70_reset_and_hazards.md R260; log 12). -/
inductive Input where
  /-- The host issues a command, and the command runs to its end as one step (20_memory.md R54). -/
  | issue (d : Descriptor)
  /-- The host issues a command, and the core runs it one micro-op a step (10_state.md R33, 30_encoding.md R80). -/
  | start (d : Descriptor)
  /-- The host writes one byte of DMEM (70_reset_and_hazards.md R253). -/
  | store (a : Word32) (v : Byte)
  /-- The host reads one byte of DMEM (R253, 10_state.md R36); what it read goes to the head of `State.seen`. -/
  | load (a : Word32)
  /-- The host asserts reset (R250, R251). -/
  | reset
  /-- The host does nothing while the core moves once. -/
  | wait
  /-- A test supplies one micro-op (30_encoding.md R82). No port of the hardware carries it (R80; log 10). -/
  | micro (u : Byte)
deriving DecidableEq, Repr

/-- The machine. The spec's names: `mat` is the state matrix S; the others are the spec's in lower case. -/
structure State where
  /-- CTX_VALID (R22). -/
  ctxValid : Bool
  /-- NK (R23). -/
  nk : KeySize
  /-- W (R25). -/
  w : Schedule
  /-- CV (R26). -/
  cv : Block
  /-- S (R28). -/
  mat : Block
  /-- SAVE (R29). -/
  save : Block
  /-- PHASE (R30). -/
  phase : Phase
  /-- CUR (R30). -/
  cur : Descriptor
  /-- SEQ (R33). -/
  seq : SeqPos
  /-- STATUS (R31). -/
  status : Byte
  /-- DMEM (20_memory.md R46). -/
  mem : Memory
  /-- ADDR_WIDTH and DMEM_ADMITS (00_scope.md R8; log 8); no step changes them. -/
  params : Params
  /-- The model's own: what the environment does next (log 12). -/
  inputs : List Input
  /-- The model's own: the bytes the host has read, with their addresses, newest first (log 18). The core reads none. -/
  seen : List Host.Cell
  /-- The model's own: how many free values have been used (log 16). -/
  draws : Nat
deriving DecidableEq, Repr

/-- Why the core has no step. -/
inductive Fault where
  /-- Raised by every DMEM access to an address that the memory does not answer (20_memory.md R52: the core is stuck
  in BUSY and no response comes; log 9); for a host's access the stop is the model's choice (log 26). Safe: the model stops where the hardware makes no progress. -/
  | notAdmitted (a : Nat)
  /-- Raised by the sequencer at a SEQ beyond the microprogram, which no rule produces (log 24). Safe: the model stops. -/
  | seqOutOfProgram
deriving DecidableEq, Repr

/-- Why there is no meaning. -/
inductive Refusal where
  /-- An instruction that exec rejects by name. No arm uses it. Safe: the model stops. -/
  | notModelled (mnemonic : String)
  /-- Raised by a supplied micro-op that is ill-formed, `ARK r` with `NR < r` included (30_encoding.md R82: a model
  "must refuse an ill-formed one. It must never give it a value"; log 11). Safe: the model stops. -/
  | illFormedMicroOp (u : Byte)
deriving DecidableEq, Repr

/-- The outcome of a step. -/
abbrev Result := Host.Outcome State Fault Refusal

/-- 10_state.md R37: CTX_VALID = 0 and PHASE = IDLE. The registers the spec leaves unspecified hold the values of log 2;
memory lists nothing (log 7); the parameters are the spec's defaults (00_scope.md R8). -/
def State.reset : State where
  ctxValid := false
  nk := .nk8
  w := Vector.ofFn fun _ => Word.zero
  cv := Block.zero
  mat := Block.zero
  save := Block.zero
  phase := .idle
  cur := ⟨0, 0, 0⟩
  seq := ⟨0, 0⟩
  status := 0
  mem := []
  params := Params.default
  inputs := []
  seen := []
  draws := 0

end Sys2Proof.Machine
end

