-- ==== Sys2Proof/Machine/Operands.lean ====
section
/-! DEFINITION. Machine/Operands.lean: the operand forms: the key size of KSZ, the regions of A, B and LEN, and what is in
range and admitted. Operand words are unsigned and used as they are (30_encoding.md R74): `toNat` is the whole of it. -/

namespace Sys2Proof

/-- 00_scope.md R7: `Nk`, the key length in words. -/
def KeySize.words : KeySize → Nat
  | .nk4 => 4
  | .nk6 => 6
  | .nk8 => 8

/-- 10_state.md R24: `NR`, the round count. -/
def KeySize.rounds : KeySize → Nat
  | .nk4 => 10
  | .nk6 => 12
  | .nk8 => 14

/-- 00_scope.md R7: the number of schedule words, `4 * (Nr + 1)`. -/
def KeySize.scheduleWords (nk : KeySize) : Nat := 4 * (nk.rounds + 1)

/-- 30_encoding.md R73: KSZ; `0b11` is the invalid key length. -/
def keySizeOf (ksz : BitVec 2) : Option KeySize :=
  if ksz = 0 then some .nk4
  else if ksz = 1 then some .nk6
  else if ksz = 2 then some .nk8
  else none

/-- Whether `a` is one of the region's addresses. -/
def Region.has (g : Region) (a : Nat) : Bool := decide (g.base ≤ a) && decide (a < g.base + g.size)

/-- 20_memory.md R51: a region is in range when it is empty or ends at or below `2^ADDR_WIDTH`; exact sums. -/
def Params.inRange (p : Params) (g : Region) : Bool :=
  decide (g.size = 0) || decide (g.base + g.size ≤ 2 ^ p.addrWidth)

/-- The part of the region that is inside the address space (20_memory.md R46). -/
def Params.clip (p : Params) (g : Region) : Region := ⟨g.base, min g.size (2 ^ p.addrWidth - g.base)⟩

/-- 20_memory.md R52: `DMEM_ADMITS(a)`, for addresses of the space. -/
def Params.admits (p : Params) (a : Nat) : Bool :=
  decide (a < 2 ^ p.addrWidth) && p.holes.all fun g => !g.has a

/-- The first of the `n` addresses from `a` that the memory does not answer, in the order of 20_memory.md R50. -/
def Params.refusedAt (p : Params) : Nat → Nat → Option Nat
  | _, 0 => none
  | a, n + 1 => if p.admits a then p.refusedAt (a + 1) n else some a

namespace Machine

/-- 10_state.md R24. -/
def State.nr (s : State) : Nat := s.nk.rounds

/-- 20_memory.md R48: INIT's key region. -/
def keyRegion (nk : KeySize) (a : Word32) : Region := ⟨a.toNat, 4 * nk.words⟩

/-- 20_memory.md R48: INIT's IV region. -/
def ivRegion (b : Word32) : Region := ⟨b.toNat, 16⟩

/-- 20_memory.md R48: the buffer of ENC and DEC. -/
def bufRegion (a len : Word32) : Region := ⟨a.toNat, len.toNat⟩

/-- The number of blocks of a buffer, `LEN / 16` (45_cbc_commands.md R182). -/
def blockCount (len : Word32) : Nat := len.toNat / 16

/-- The address of block `j` of a buffer, `A + 16*j` (45_cbc_commands.md R182). -/
def blockAddr (a : Word32) (j : Nat) : Nat := a.toNat + 16 * j

end Machine

end Sys2Proof
end

