-- ==== Sys2Proof/Machine/KeySchedule.lean ====
section
/-! DEFINITION. Machine/KeySchedule.lean: round-key expansion (42_key_schedule.md). -/

namespace Sys2Proof.Machine

/-- R121: byte 1 moves to position 0. -/
def rotWord (w : Word) : Word := #v[w[1], w[2], w[3], w[0]]

/-- R122. -/
def subWord (w : Word) : Word := Vector.ofFn fun k => sbox w[k]

/-- R123: `RCON[j] = xtime^(j-1)(0x01)` for `j ≥ 1`; `RCON[0]` is never used. -/
def rcon : Nat → Byte
  | 0 => 0x01
  | 1 => 0x01
  | j + 2 => xtime (rcon (j + 1))

/-- R124: the round constant goes into the first byte only. -/
def addRcon (j : Nat) (w : Word) : Word := #v[w[0] ^^^ rcon j, w[1], w[2], w[3]]

/-- Word `i` of the schedule (10_state.md R25; indices stay below 60, 40_gf256.md R105). -/
def wordAt (w : Schedule) (i : Nat) : Word := w.getD i Word.zero

/-- R124: the transformed previous word at index `i`. -/
def transformed (nk : KeySize) (i : Nat) (prev : Word) : Word :=
  if i % nk.words = 0 then addRcon (i / nk.words) (subWord (rotWord prev))
  else if nk = .nk8 ∧ i % nk.words = 4 then subWord prev
  else prev

/-- R124: the new word at index `i`. -/
def newWord (nk : KeySize) (w : Schedule) (i : Nat) : Word :=
  Word.xor (wordAt w (i - nk.words)) (transformed nk i (wordAt w (i - 1)))

/-- R124: the second loop, `n` words from index `i` on. -/
def expandFrom (nk : KeySize) : Nat → Nat → Schedule → Schedule
  | 0, _, w => w
  | n + 1, i, w => expandFrom nk n (i + 1) (w.setIfInBounds i (newWord nk w i))

/-- R124: the first loop: the root key verbatim, `W[i][j] = key[4*i + j]`; `rest` is what the other entries hold. -/
def rootWords (nk : KeySize) (key : Vector Byte (4 * nk.words)) (rest : Schedule) : Schedule :=
  Vector.ofFn fun i =>
    if h : i.val < nk.words then Vector.ofFn fun (j : Fin 4) => key[4 * i.val + j.val]'(by omega) else rest[i]

/-- R124: KeyExpansion. Entries at `4*(Nr+1)` and above keep `rest` (10_state.md R25). -/
def keyExpansion (nk : KeySize) (key : Vector Byte (4 * nk.words)) (rest : Schedule) : Schedule :=
  expandFrom nk (nk.scheduleWords - nk.words) nk.words (rootWords nk key rest)

/-- R125: round key `r`, byte `j + 4*c` from word `4*r + c`. -/
def roundKey (w : Schedule) (r : Nat) : Block :=
  Vector.ofFn fun k => (wordAt w (4 * r + k.val / 4))[k.val % 4]'(by omega)

end Sys2Proof.Machine
end

