-- ==== Sys2Proof/Machine/Flags.lean ====
section
/-! DEFINITION. Machine/Flags.lean: the core has no condition flags (10_state.md R34); what a command reports is its status
code (60_exceptions.md R220), and which code is the order of checks (R227). -/

namespace Sys2Proof.Machine

/-- 60_exceptions.md R220: the codes a command ends with. -/
inductive StatusCode where
  | ok
  | illegal
  | keyLen
  | noCtx
  | misaligned
  | bounds
deriving DecidableEq, Repr

/-- 60_exceptions.md R220: the byte written to STATUS. -/
def statusByte : StatusCode → Byte
  | .ok => 0x00
  | .illegal => 0x01
  | .keyLen => 0x02
  | .noCtx => 0x03
  | .misaligned => 0x04
  | .bounds => 0x05

/-- 60_exceptions.md R227, for ENC and DEC after decode: no context, then the length, then the range; `none` where every
check passes. -/
def bufferError (s : State) (a len : Word32) : Option StatusCode :=
  if s.ctxValid = false then some .noCtx
  else if len.toNat % 16 ≠ 0 then some .misaligned
  else if s.params.inRange (bufRegion a len) = false then some .bounds
  else none

/-- 60_exceptions.md R226, for INIT with a legal key size: both regions in range. -/
def initInRange (s : State) (nk : KeySize) (a b : Word32) : Bool :=
  s.params.inRange (keyRegion nk a) && s.params.inRange (ivRegion b)

end Sys2Proof.Machine
end

