-- ==== Sys2Proof/Machine/Ops.lean ====
section
/-! DEFINITION. Machine/Ops.lean: the operations over memory and registers that every meaning uses: byte memory, the free
values, issue, error entry, completion and reset. -/

namespace Sys2Proof.Machine

/-! Data memory (20_memory.md R46, R50). -/

/-- What an address that memory does not list reads as (log 7). -/
def Memory.unlisted : Byte := 0x00

/-- R50: one byte. -/
def Memory.read : Memory → Nat → Byte
  | [], _ => Memory.unlisted
  | (k, v) :: m, a => if a = k then v else Memory.read m a

/-- R50: writes one byte and keeps the canonical form. -/
def Memory.write : Memory → Nat → Byte → Memory
  | [], a, v => if v = Memory.unlisted then [] else [(a, v)]
  | (k, x) :: m, a, v =>
    if a < k then (if v = Memory.unlisted then (k, x) :: m else (a, v) :: (k, x) :: m)
    else if a = k then (if v = Memory.unlisted then m else (a, v) :: m)
    else (k, x) :: Memory.write m a v

/-- 00_scope.md R12: `MemRead(a, n)`, element `k` from address `a + k`. -/
def Memory.bytes (m : Memory) (a n : Nat) : Vector Byte n := Vector.ofFn fun k => m.read (a + k.val)

/-- 00_scope.md R12: `MemWrite(a, n, v)`, byte accesses at `a, a+1, …` in that order. -/
def Memory.writeBytes : Memory → Nat → List Byte → Memory
  | m, _, [] => m
  | m, a, v :: vs => Memory.writeBytes (m.write a v) (a + 1) vs

/-- Every address is above `lo`, addresses strictly rise, and no byte is what an unlisted address reads as. -/
def Memory.wfFrom : Option Nat → Memory → Bool
  | _, [] => true
  | lo, (k, v) :: m => (lo.all fun l => decide (l < k)) && decide (v ≠ Memory.unlisted) && Memory.wfFrom (some k) m

/-- The canonical form: equal memories are equal lists. -/
def Memory.wf (m : Memory) : Bool := Memory.wfFrom none m

/-! Sequencing of steps that may stop. -/

/-- Continue from a next state; a stop stays. -/
def andThen (r : Result) (f : State → Result) : Result :=
  match r with
  | .next s => f s
  | .fault e => .fault e
  | .refused e => .refused e

/-! One field at a time. -/

def State.withMat (s : State) (b : Block) : State := { s with mat := b }
def State.withSave (s : State) (b : Block) : State := { s with save := b }
def State.withCv (s : State) (b : Block) : State := { s with cv := b }
def State.withMem (s : State) (m : Memory) : State := { s with mem := m }
def State.withSeq (s : State) (p : SeqPos) : State := { s with seq := p }
def State.withInputs (s : State) (l : List Input) : State := { s with inputs := l }
def State.withSeen (s : State) (l : List Host.Cell) : State := { s with seen := l }

/-! Accesses of the core (20_memory.md R50, R52). -/

/-- The core reads `n` bytes at `a`; it is stuck at the first that the memory does not answer. -/
def readThen (n a : Nat) (s : State) (f : Vector Byte n → Result) : Result :=
  match s.params.refusedAt a n with
  | some x => .fault (.notAdmitted x)
  | none => f (s.mem.bytes a n)

/-- The core writes `v` at `a`; it is stuck at the first byte that the memory does not answer. -/
def writeAt {n : Nat} (v : Vector Byte n) (a : Nat) (s : State) : Result :=
  match s.params.refusedAt a n with
  | some x => .fault (.notAdmitted x)
  | none => .next (s.withMem (s.mem.writeBytes a v.toList))

/-! Free values (log 16): the `n`-th and later free bytes. -/

def freeBytes (n count : Nat) : Vector Byte count := Vector.ofFn fun k => Config.freeByte (n + k.val)

def freeBlock (n : Nat) : Block := freeBytes n 16

def freeSchedule (n : Nat) : Schedule := Vector.ofFn fun i => freeBytes (n + 4 * i.val) 4

/-! The life of a command (45_cbc_commands.md R180). -/

/-- 10_state.md R30: the descriptor goes into CUR and the phase to BUSY; SEQ is at the start of CUR (R33; log 6). -/
def State.issued (s : State) (d : Descriptor) : State :=
  { s with cur := d, phase := .busy, seq := ⟨0, 0⟩ }

/-- 00_scope.md R12, 45_cbc_commands.md R180: `complete(OK)`. -/
def State.complete (s : State) : State := { s with status := statusByte .ok, phase := .idle }

/-- 60_exceptions.md R224: error entry, the one exception of this core. The session ends, the context and the transient
registers become unspecified (free values, log 3), the code goes to STATUS and the phase to IDLE. -/
def State.raiseError (s : State) (c : StatusCode) : State :=
  { s with
    ctxValid := false
    nk := Config.freeKeySize s.draws
    w := freeSchedule s.draws
    cv := freeBlock (s.draws + 240)
    mat := freeBlock (s.draws + 256)
    save := freeBlock (s.draws + 272)
    status := statusByte c
    phase := .idle
    draws := s.draws + 288 }

/-- 10_state.md R28: between commands S is unspecified, a free value (log 5). -/
def State.retireMat (s : State) : State := { s with mat := freeBlock s.draws, draws := s.draws + 16 }

/-- 45_cbc_commands.md R181: the context of a successful INIT. `w` holds the expanded key, and free values above it,
which used up 240 draws (10_state.md R25; log 4). -/
def State.loadContext (s : State) (nk : KeySize) (w : Schedule) (iv : Block) : State :=
  { s with ctxValid := true, nk := nk, w := w, cv := iv, draws := s.draws + 240 }

/-- 10_state.md R37, 70_reset_and_hazards.md R250: the registers as after reset (log 2); `m` is what memory holds; the
parameters, what the host has read and will do next, and the count of free values stay. -/
def State.restarted (s : State) (m : Memory) : State :=
  { State.reset with mem := m, params := s.params, inputs := s.inputs, seen := s.seen, draws := s.draws }

end Sys2Proof.Machine
end

