-- ==== Sys2Proof/Machine/Forward.lean ====
section
/-! DEFINITION. Machine/Forward.lean: the forward round pipeline (43_forward_round.md) and the meanings of its micro-ops. Each
transform reads all of the old state matrix. -/

namespace Sys2Proof.Machine

/-- R140. -/
def subBytes (s : Block) : Block := Vector.ofFn fun k => sbox s[k]

/-- R141: `S'[r,c] = S[r,(c+r) mod 4]`. -/
def shiftRows (s : Block) : Block :=
  Vector.ofFn fun i => s[i.val % 4 + 4 * ((i.val / 4 + i.val % 4) % 4)]'(by omega)

/-- A column-mixing matrix: row `r`, column `j`. -/
abbrev Matrix4 := Vector (Vector Byte 4) 4

/-- R142: one byte of a mixed column: a row of the matrix times the column. -/
def mixByte (row : Vector Byte 4) (a0 a1 a2 a3 : Byte) : Byte :=
  gadd (gadd (gadd (gmul a0 row[0]) (gmul a1 row[1])) (gmul a2 row[2])) (gmul a3 row[3])

/-- R142, 44_inverse_round.md R162: every column of `s` multiplied by `m`; byte `i` is row `i % 4` of column `i / 4`. -/
def mixWith (m : Matrix4) (s : Block) : Block :=
  Vector.ofFn fun i =>
    mixByte (m[i.val % 4]'(by omega)) (s[4 * (i.val / 4)]'(by omega)) (s[4 * (i.val / 4) + 1]'(by omega))
      (s[4 * (i.val / 4) + 2]'(by omega)) (s[4 * (i.val / 4) + 3]'(by omega))

/-- R142: the matrix M. -/
def mixMatrix : Matrix4 := #v[
  #v[0x02, 0x03, 0x01, 0x01],
  #v[0x01, 0x02, 0x03, 0x01],
  #v[0x01, 0x01, 0x02, 0x03],
  #v[0x03, 0x01, 0x01, 0x02]]

/-- R142. -/
def mixColumns (s : Block) : Block := mixWith mixMatrix s

/-- R143: XOR with round key `r`. -/
def addRoundKey (w : Schedule) (r : Nat) (s : Block) : Block := Block.xor s (roundKey w r)

/-- R144: a middle round. -/
def forwardRound (w : Schedule) (r : Nat) (s : Block) : Block :=
  addRoundKey w r (mixColumns (shiftRows (subBytes s)))

/-- R144: `n` middle rounds from round `r` on. -/
def forwardRounds (w : Schedule) : Nat → Nat → Block → Block
  | 0, _, s => s
  | n + 1, r, s => forwardRounds w n (r + 1) (forwardRound w r s)

/-- R144: the forward block pipeline. -/
def cipher (w : Schedule) (nr : Nat) (inp : Block) : Block :=
  addRoundKey w nr (shiftRows (subBytes (forwardRounds w (nr - 1) 1 (addRoundKey w 0 inp))))

/-- SB (R140). -/
def execSb (s : State) : Result := .next (s.withMat (subBytes s.mat))

/-- SR (R141). -/
def execSr (s : State) : Result := .next (s.withMat (shiftRows s.mat))

/-- MC (R142). -/
def execMc (s : State) : Result := .next (s.withMat (mixColumns s.mat))

/-- ARK r (R143); `NR < r` is ill-formed and refused (30_encoding.md R82; log 11). -/
def execArk (r : BitVec 4) (s : State) : Result :=
  if r.toNat ≤ s.nr then .next (s.withMat (addRoundKey s.w r.toNat s.mat))
  else .refused (.illFormedMicroOp (0#4 ++ r))

end Sys2Proof.Machine
end

