-- ==== Sys2Proof/Machine/Inverse.lean ====
section
/-! DEFINITION. Machine/Inverse.lean: the inverse round pipeline (44_inverse_round.md) and the meanings of its micro-ops. -/

namespace Sys2Proof.Machine

/-- R161. -/
def invSubBytes (s : Block) : Block := Vector.ofFn fun k => invSbox s[k]

/-- R160: `S'[r,c] = S[r,(c-r) mod 4]`; `c + 4 - r` keeps the remainder non-negative. -/
def invShiftRows (s : Block) : Block :=
  Vector.ofFn fun i => s[i.val % 4 + 4 * ((i.val / 4 + 4 - i.val % 4) % 4)]'(by omega)

/-- R162: the matrix MI. -/
def invMixMatrix : Matrix4 := #v[
  #v[0x0e, 0x0b, 0x0d, 0x09],
  #v[0x09, 0x0e, 0x0b, 0x0d],
  #v[0x0d, 0x09, 0x0e, 0x0b],
  #v[0x0b, 0x0d, 0x09, 0x0e]]

/-- R162. -/
def invMixColumns (s : Block) : Block := mixWith invMixMatrix s

/-- R164: a middle step: InvMixColumns comes after AddRoundKey. -/
def inverseRound (w : Schedule) (r : Nat) (s : Block) : Block :=
  invMixColumns (addRoundKey w r (invSubBytes (invShiftRows s)))

/-- R164: the middle steps from round `n` down to round 1. -/
def inverseRounds (w : Schedule) : Nat → Block → Block
  | 0, s => s
  | n + 1, s => inverseRounds w n (inverseRound w (n + 1) s)

/-- R164: the inverse block pipeline, with the forward round keys in reverse (42_key_schedule.md R126). -/
def invCipher (w : Schedule) (nr : Nat) (inp : Block) : Block :=
  addRoundKey w 0 (invSubBytes (invShiftRows (inverseRounds w (nr - 1) (addRoundKey w nr inp))))

/-- ISB (R161). -/
def execIsb (s : State) : Result := .next (s.withMat (invSubBytes s.mat))

/-- ISR (R160). -/
def execIsr (s : State) : Result := .next (s.withMat (invShiftRows s.mat))

/-- IMC (R162). -/
def execImc (s : State) : Result := .next (s.withMat (invMixColumns s.mat))

end Sys2Proof.Machine
end

