-- ==== Sys2Proof/Machine/Commands.lean ====
section
/-! DEFINITION. Machine/Commands.lean: the meanings of the three host commands (45_cbc_commands.md), from a state in which the
command is issued. -/

namespace Sys2Proof.Machine

/-- R181: the schedule an INIT writes: the expanded key, and free values above it (10_state.md R25; log 4). -/
def initSchedule (s : State) (nk : KeySize) (key : Vector Byte (4 * nk.words)) : Schedule :=
  keyExpansion nk key (freeSchedule s.draws)

/-- INIT (R181): all reads come before any context write (20_memory.md R55). -/
def execInit (ksz : BitVec 2) (a b : Word32) (s : State) : Result :=
  match keySizeOf ksz with
  | none => .next (s.raiseError .keyLen)
  | some nk =>
    if initInRange s nk a b then
      readThen (4 * nk.words) a.toNat s fun key =>
        readThen 16 b.toNat s fun iv =>
          .next (s.loadContext nk (initSchedule s nk key) iv).complete
    else .next (s.raiseError .bounds)

/-- R184: what EncBlock does before the cipher: read the block and XOR the chaining value. -/
def encLoad (a : Nat) (s : State) : Result :=
  readThen 16 a s fun p => .next (s.withMat (Block.xor p s.cv))

/-- R184: what EncBlock does after the cipher: write the block, which is the next chaining value. -/
def encStore (a : Nat) (s : State) : Result :=
  andThen (writeAt s.mat a s) fun t => .next (t.withCv t.mat)

/-- R184. -/
def encBlock (a : Nat) (s : State) : Result :=
  andThen (encLoad a s) fun t => encStore a (t.withMat (cipher t.w t.nr t.mat))

/-- R185: what DecBlock does before the inverse cipher: read the block and save it. -/
def decLoad (a : Nat) (s : State) : Result :=
  readThen 16 a s fun c => .next ((s.withSave c).withMat c)

/-- R185: the state matrix after the XOR with the chaining value. -/
def chained (s : State) : State := s.withMat (Block.xor s.mat s.cv)

/-- R185: what DecBlock does after the inverse cipher: XOR, write, and advance to the saved ciphertext. -/
def decStore (a : Nat) (s : State) : Result :=
  andThen (writeAt (chained s).mat a (chained s)) fun t => .next (t.withCv t.save)

/-- R185. -/
def decBlock (a : Nat) (s : State) : Result :=
  andThen (decLoad a s) fun t => decStore a (t.withMat (invCipher t.w t.nr t.mat))

/-- The last position of a block's microprogram, which has `4 * NR` micro-ops (43_forward_round.md R145). -/
def lastStep (s : State) : Nat := 4 * s.nr - 1

/-- R182, R183: one block step for each of `n` blocks from block `j` on; SEQ keeps the position (10_state.md R33; log 6). -/
def eachBlock (f : Nat → State → Result) (a : Word32) : Nat → Nat → State → Result
  | 0, _, s => .next s
  | n + 1, j, s =>
    andThen (f (blockAddr a j) s) fun t => eachBlock f a n (j + 1) (t.withSeq ⟨j, lastStep t⟩)

/-- The end of ENC and DEC after `n` blocks: S holds no value between commands (10_state.md R28; log 5); with no block
nothing wrote it (R190). -/
def finishBlocks (n : Nat) (s : State) : State := (if n = 0 then s else s.retireMat).complete

/-- R182, R183: the checks, then the blocks, then the response. -/
def bufferCommand (f : Nat → State → Result) (a len : Word32) (s : State) : Result :=
  match bufferError s a len with
  | some c => .next (s.raiseError c)
  | none => andThen (eachBlock f a (blockCount len) 0 s) fun t => .next (finishBlocks (blockCount len) t)

/-- ENC (R182). -/
def execEnc (a len : Word32) (s : State) : Result := bufferCommand encBlock a len s

/-- DEC (R183). -/
def execDec (a len : Word32) (s : State) : Result := bufferCommand decBlock a len s

/-- A command word that decodes to ILLEGAL (R180; 60_exceptions.md R221). -/
def execIllegal (s : State) : Result := .next (s.raiseError .illegal)

end Sys2Proof.Machine
end

