-- ==== Sys2Proof/Machine/Dispatch.lean ====
section
/-! DEFINITION. Machine/Dispatch.lean: one arm per constructor of Instr, each a call of its meaning. -/

namespace Sys2Proof.Machine

def exec (i : Instr) (s : State) : Host.Outcome State Fault Refusal :=
  match i with
  | .init ksz a b => Sys2Proof.Machine.execInit ksz a b s
  | .enc a len => Sys2Proof.Machine.execEnc a len s
  | .dec a len => Sys2Proof.Machine.execDec a len s
  | .ark r => Sys2Proof.Machine.execArk r s
  | .sb => Sys2Proof.Machine.execSb s
  | .sr => Sys2Proof.Machine.execSr s
  | .mc => Sys2Proof.Machine.execMc s
  | .isb => Sys2Proof.Machine.execIsb s
  | .isr => Sys2Proof.Machine.execIsr s
  | .imc => Sys2Proof.Machine.execImc s

end Sys2Proof.Machine
end

