-- ==== Sys2Proof/Machine/Sequencer.lean ====
section
/-! DEFINITION. Machine/Sequencer.lean: the core's own moves while BUSY: SEQ walks the constant microprograms FWD and INV, one
micro-op a move (10_state.md R33, 43_forward_round.md R145, 44_inverse_round.md R165; log 1). -/

namespace Sys2Proof.Machine

/-- 30_encoding.md R81: the codes of the micro-ops. -/
def arkCode (r : Nat) : Byte := BitVec.ofNat 8 r
def sbCode : Byte := 0x10
def srCode : Byte := 0x20
def mcCode : Byte := 0x30
def isbCode : Byte := 0x40
def isrCode : Byte := 0x50
def imcCode : Byte := 0x60

/-- 43_forward_round.md R145: `FWD(Nr)`. -/
def fwdProgram (nr : Nat) : List Byte :=
  arkCode 0 :: ((List.range' 1 (nr - 1)).flatMap fun r => [sbCode, srCode, mcCode, arkCode r])
    ++ [sbCode, srCode, arkCode nr]

/-- 44_inverse_round.md R165: `INV(Nr)`. -/
def invProgram (nr : Nat) : List Byte :=
  arkCode nr :: ((List.range' 1 (nr - 1)).reverse.flatMap fun r => [isrCode, isbCode, arkCode r, imcCode])
    ++ [isrCode, isbCode, arkCode 0]

/-- One micro-op byte: an ill-formed one is refused (30_encoding.md R82; log 11). -/
def runMicroOp (u : Byte) (s : State) : Result :=
  match decodeMicroOp u with
  | .instr i => exec i s
  | .rejected _ => .refused (.illFormedMicroOp u)

/-- A list of micro-op bytes, in order (30_encoding.md R84). -/
def runMicroOps : List Byte → State → Result
  | [], s => .next s
  | u :: us, s => andThen (runMicroOp u s) (runMicroOps us)

/-- A whole command as one step (45_cbc_commands.md R180): issue, decode, then its meaning or ERR_ILLEGAL. -/
def runCommand (d : Descriptor) (s : State) : Result :=
  match decodeCommand d with
  | .instr i => exec i (s.issued d)
  | .rejected _ => execIllegal (s.issued d)

/-- The end of a block's microprogram: store, then the next block or the response. -/
def endBlock (store : Nat → State → Result) (a len : Word32) (s : State) : Result :=
  andThen (store (blockAddr a s.seq.blk) s) fun t =>
    if t.seq.blk + 1 < blockCount len then .next (t.withSeq ⟨t.seq.blk + 1, 0⟩)
    else .next (finishBlocks (blockCount len) t)

/-- One micro-op of the block in progress: before the first, the block is loaded; after the last, it is stored. -/
def microMove (load store : Nat → State → Result) (program : List Byte) (a len : Word32) (s : State) : Result :=
  match program[s.seq.step]? with
  | none => .fault .seqOutOfProgram
  | some u =>
    andThen (if s.seq.step = 0 then load (blockAddr a s.seq.blk) s else .next s) fun t =>
      andThen (runMicroOp u t) fun v =>
        if v.seq.step + 1 < program.length then .next (v.withSeq ⟨v.seq.blk, v.seq.step + 1⟩)
        else endBlock store a len v

/-- A move of ENC or DEC: the checks come with the first move, before any access (60_exceptions.md R228; log 25). -/
def bufferMove (load store : Nat → State → Result) (program : List Byte) (a len : Word32) (s : State) : Result :=
  if s.seq = ⟨0, 0⟩ then
    match bufferError s a len with
    | some c => .next (s.raiseError c)
    | none =>
      if blockCount len = 0 then .next (finishBlocks 0 s) else microMove load store program a len s
  else microMove load store program a len s

/-- One move of the core while BUSY with CUR. INIT has no microprogram: it is one move (log 25). -/
def coreMove (s : State) : Result :=
  match decodeCommand s.cur with
  | .instr (.enc a len) => bufferMove encLoad encStore (fwdProgram s.nr) a len s
  | .instr (.dec a len) => bufferMove decLoad decStore (invProgram s.nr) a len s
  | .instr i => exec i s
  | .rejected _ => execIllegal s

end Sys2Proof.Machine
end

