-- ==== Sys2Proof/Machine/Turns.lean ====
section
/-! DEFINITION. Machine/Turns.lean: what the host may do and when (70_reset_and_hazards.md R250 to R254, R260), and the turn
that a step takes. -/

namespace Sys2Proof.Machine

/-- R253, R260: the regions of the command in CUR, which the host does not touch while BUSY, whether or not its checks will
pass. An INIT with KSZ = 3 has its IV region (20_memory.md R51) and no key region: 30_encoding.md R73 gives it no key bytes. -/
def busyRegions (d : Descriptor) : List Region :=
  match decodeCommand d with
  | .instr (.init ksz a b) =>
    match keySizeOf ksz with
    | some nk => [keyRegion nk a, ivRegion b]
    | none => [ivRegion b]
  | .instr (.enc a len) => [bufRegion a len]
  | .instr (.dec a len) => [bufRegion a len]
  | _ => []

/-- R253: whether the regions of the command in CUR hold the address. -/
def inBusyRegion (s : State) (a : Nat) : Bool := (busyRegions s.cur).any fun g => g.has a

/-- R253, R260: the host may touch an address that the memory answers, but while BUSY no address of the running command's
regions. The spec says what an unanswered address does to the core's accesses only; that it is closed to the host is the
model's choice (log 26). -/
def State.mayTouch (s : State) (a : Nat) : Bool :=
  s.params.admits a && !(decide (s.phase = .busy) && inBusyRegion s a)

/-- R253, 20_memory.md R54: the byte that the host reads at an address; `none` where it has no such read. -/
def State.hostRead (s : State) (a : Nat) : Option Byte := if s.mayTouch a then some (s.mem.read a) else none

/-- 10_state.md R36, R259: what the host can observe (log 18). `dmem` lists the cells that the host may touch; `hostRead`
says which other addresses read as an unlisted byte and which the host does not read. -/
structure Observation where
  status : Byte
  phase : Phase
  dmem : Memory
deriving DecidableEq, Repr

/-- 10_state.md R36, 20_memory.md R54: while BUSY no byte of the running command's regions is in it, and at no time a byte
of an address that the memory does not answer (the model's choice, log 26). -/
def State.observe (s : State) : Observation := ⟨s.status, s.phase, s.mem.filter fun c => s.mayTouch c.1⟩

/-- R251: the buffer that a reset in BUSY leaves unknown: all of it that exists, whether or not the command's checks
would pass (log 13). -/
def interruptedBuffer (s : State) : Option Region :=
  match s.phase with
  | .idle => none
  | .busy =>
    match decodeCommand s.cur with
    | .instr (.enc a len) => some (s.params.clip (bufRegion a len))
    | .instr (.dec a len) => some (s.params.clip (bufRegion a len))
    | _ => none

/-- R250, R251: reset. The bytes of an interrupted buffer are free values; no other byte changes. -/
def State.resetNow (s : State) : State :=
  match interruptedBuffer s with
  | none => s.restarted s.mem
  | some g =>
    { s.restarted (s.mem.writeBytes g.base (freeBytes s.draws g.size).toList) with draws := s.draws + g.size }

/-- The host writes one byte; an address the memory does not answer has no step (20_memory.md R52; log 26). -/
def hostStore (a : Word32) (v : Byte) (s : State) : Result := writeAt #v[v] a.toNat s

/-- The host reads one byte; an address the memory does not answer has no step, which is the model's choice, since the spec
speaks of the core's accesses only (log 26). -/
def hostLoad (a : Word32) (s : State) : Result :=
  readThen 1 a.toNat s fun v => .next (s.withSeen ((a.toNat, v[0]) :: s.seen))

/-- A turn while IDLE: the host's next move. With none the core keeps every register (60_exceptions.md R237). -/
def idleTurn (s : State) : Result :=
  match s.inputs with
  | [] => .next s
  | .issue d :: rest => runCommand d (s.withInputs rest)
  | .start d :: rest => .next ((s.withInputs rest).issued d)
  | .store a v :: rest => hostStore a v (s.withInputs rest)
  | .load a :: rest => hostLoad a (s.withInputs rest)
  | .reset :: rest => .next (s.withInputs rest).resetNow
  | .wait :: rest => .next (s.withInputs rest)
  | .micro u :: rest => runMicroOp u (s.withInputs rest)

/-- A turn while BUSY: a reset, and a write or read outside the command's regions, takes place at once; the host waits with
everything else (R253, R254), and the core moves. -/
def busyTurn (s : State) : Result :=
  match s.inputs with
  | .reset :: rest => .next (s.withInputs rest).resetNow
  | .store a v :: rest => if inBusyRegion s a.toNat then coreMove s else hostStore a v (s.withInputs rest)
  | .load a :: rest => if inBusyRegion s a.toNat then coreMove s else hostLoad a (s.withInputs rest)
  | .wait :: rest => coreMove (s.withInputs rest)
  | _ => coreMove s

/-- One step. -/
def takeTurn (s : State) : Result :=
  match s.phase with
  | .idle => idleTurn s
  | .busy => busyTurn s

/-- The input that makes the next step run an encoded instruction. -/
def inputOf : Code → Input
  | .command d => .issue d
  | .microOp u => .micro u

/-- The instruction of `c` is what the next step runs: it is the host's next move, and the core is ready for it (log 14). -/
def State.withNext (s : State) (c : Code) : State := { s with phase := .idle, inputs := inputOf c :: s.inputs }

end Sys2Proof.Machine
end

