-- ==== Sys2Proof/Machine/Step.lean ====
section
/-! DEFINITION. Machine/Step.lean: the step, and the state whose next step runs a given instruction. -/

namespace Sys2Proof.Machine

/-- One step of the machine: the host's next move or the core's (10_state.md R20). -/
def step (s : State) : Host.Outcome State Fault Refusal := takeTurn s

/-- The state whose next step runs the instruction with these bits (log 14, log 15). -/
def State.withFetchWord (s : State) (nbits w : Nat) : State := s.withNext (tableCode nbits w)

end Sys2Proof.Machine
end

