-- ==== Sys2Proof/Machine/Padding.lean ====
section
/-! DEFINITION. Machine/Padding.lean: the host's padding function (46_padding_host.md). No command pads (30_encoding.md R85);
there is no unpad (R212). -/

namespace Sys2Proof.Machine

/-- R210: `16 - (L mod 16)`, 1 to 16. -/
def padLen (l : Nat) : Nat := 16 - l % 16

/-- R211. -/
def pad (policy : PadPolicy) (p : List Byte) : List Byte :=
  if p.length % 16 ≠ 0 then p ++ List.replicate (padLen p.length) (BitVec.ofNat 8 (padLen p.length))
  else
    match policy with
    | .fullBlock => p ++ List.replicate 16 0x10
    | .none => p

end Sys2Proof.Machine
end

