-- ==== Sys2Proof/Safety.lean ====
section
/-! DEFINITION. Safety.lean: the words the claims are stated in: when a command executes normally, the chaining value of a
block, the invariant of the machine, and the helpers that write bytes out. -/

namespace Sys2Proof.Machine

/-- The next state, where there is one. -/
def nextOf : Result → Option State
  | .next s => some s
  | .fault _ => none
  | .refused _ => none

/-- 20_memory.md R52: the memory answers every address of the region. -/
def answers (p : Params) (g : Region) : Prop := ∀ x, g.has x = true → p.admits x = true

/-- 45_cbc_commands.md R181: when INIT with key size `nk` executes normally: both regions in range and answered. -/
def InitReady (s : State) (nk : KeySize) (a b : Word32) : Prop :=
  s.params.inRange (keyRegion nk a) = true ∧ s.params.inRange (ivRegion b) = true ∧
    answers s.params (keyRegion nk a) ∧ answers s.params (ivRegion b)

/-- 45_cbc_commands.md R182, R183: when ENC and DEC execute normally: a valid context, whole blocks, and a buffer in
range and answered. -/
def BufferReady (s : State) (a len : Word32) : Prop :=
  s.ctxValid = true ∧ len.toNat % 16 = 0 ∧ s.params.inRange (bufRegion a len) = true ∧
    answers s.params (bufRegion a len)

/-- Block `j` of the buffer at `a`. -/
def blockOfBuffer (m : Memory) (a : Word32) (j : Nat) : Block := m.bytes (blockAddr a j) 16

/-- 45_cbc_commands.md R182, R183: `C_{j-1}`, with `m` the memory that holds the ciphertext and `C_{-1}` the chaining value
`cv` at issue. -/
def chainInto (cv : Block) (m : Memory) (a : Word32) (j : Nat) : Block :=
  if j = 0 then cv else blockOfBuffer m a (j - 1)

/-- The regions have no address in common. -/
def apart (g h : Region) : Prop := ∀ x, ¬(g.has x = true ∧ h.has x = true)

/-- Every entry of the two schedules that a context of size `nk` uses is the same (10_state.md R25: no rule reads the
others). -/
def sameKeys (nk : KeySize) (v w : Schedule) : Prop := ∀ i, i < nk.scheduleWords → wordAt v i = wordAt w i

/-- 10_state.md R33: while an ENC or DEC is BUSY, SEQ is at the start of CUR, or the checks have passed and SEQ is inside
the buffer and inside the microprogram. -/
def SeqInPlace (s : State) : Prop :=
  s.phase = .busy → ∀ a len : Word32,
    (decodeCommand s.cur = .instr (.enc a len) ∨ decodeCommand s.cur = .instr (.dec a len)) →
      s.seq = ⟨0, 0⟩ ∨
        (bufferError s a len = none ∧ s.seq.blk < blockCount len ∧ s.seq.step < 4 * s.nr)

/-- The invariant: legal parameters (00_scope.md R8), memory in canonical form and inside the address space (20_memory.md
R46), a STATUS that 60_exceptions.md R220 gives, and SEQ in place (10_state.md R33). -/
def Inv (s : State) : Prop :=
  s.params.wf ∧ s.mem.wf = true ∧ (∀ c ∈ s.mem, c.1 < 2 ^ s.params.addrWidth) ∧ s.status.toNat ≤ 5 ∧ SeqInPlace s

/-- `n` bytes written as one hexadecimal number, first byte leftmost (00_scope.md R9). -/
def hexBytes (n x : Nat) : Vector Byte n := Vector.ofFn fun k => BitVec.ofNat 8 (x >>> (8 * (n - 1 - k.val)))

/-- A block written as one hexadecimal number. -/
def hexBlock (x : Nat) : Block := hexBytes 16 x

end Sys2Proof.Machine
end

