-- ==== Sys2Proof/Certificates/Slice0/Obligations.lean ====
section
/-! DEFINITION. Certificates/Slice0/Obligations.lean: the statements for the provers, each with the rules of spec/ it states.
A statement about a free value holds for every value. -/

open Sys2Proof Sys2Proof.Machine

/-- Decode and encode agree: no operand bit of a code is dropped (30_encoding.md R71, R76, R77, R81). -/
def Obligations.DecodeOfEncodeIsTheInstruction : Prop :=
  ∀ i : Instr, i.wellFormed = true → decode (encode i) = .instr i

/-- Decode accepts a code only if it is the encoding of a well-formed instruction (30_encoding.md R75, R76, R78, R82). -/
def Obligations.AcceptedCodeIsTheEncoding : Prop :=
  ∀ (c : Code) (i : Instr), decode c = .instr i → i.wellFormed = true ∧ encode i = c

/-- 30_encoding.md R77, the whole command opcode map, which is the spec's own inference (from R72, R73, R75 and R76). -/
def Obligations.CommandMapHasOneRowPerValue : Prop :=
  (∀ a b : Word32,
    decodeCommand ⟨0x01, a, b⟩ = .instr (.init 0 a b) ∧
    decodeCommand ⟨0x11, a, b⟩ = .instr (.init 1 a b) ∧
    decodeCommand ⟨0x21, a, b⟩ = .instr (.init 2 a b) ∧
    decodeCommand ⟨0x31, a, b⟩ = .instr (.init 3 a b) ∧
    decodeCommand ⟨0x02, a, b⟩ = .instr (.enc a b) ∧
    decodeCommand ⟨0x03, a, b⟩ = .instr (.dec a b)) ∧
  (∀ cmd a b : Word32,
    cmd ≠ 0x01 → cmd ≠ 0x11 → cmd ≠ 0x21 → cmd ≠ 0x31 → cmd ≠ 0x02 → cmd ≠ 0x03 →
      ∃ r, decodeCommand ⟨cmd, a, b⟩ = .rejected r)

/-- 30_encoding.md R81: the micro-op map. Every other byte must be refused (R82); that the decoder does it is the model's
(log 11). -/
def Obligations.MicroOpMap : Prop :=
  (∀ r : BitVec 4, r ≠ 15 → decodeMicroOp (BitVec.ofNat 8 r.toNat) = .instr (.ark r)) ∧
  decodeMicroOp 0x10 = .instr .sb ∧ decodeMicroOp 0x20 = .instr .sr ∧ decodeMicroOp 0x30 = .instr .mc ∧
  decodeMicroOp 0x40 = .instr .isb ∧ decodeMicroOp 0x50 = .instr .isr ∧ decodeMicroOp 0x60 = .instr .imc ∧
  (∀ u : Byte, 0x0f ≤ u.toNat → u ≠ 0x10 → u ≠ 0x20 → u ≠ 0x30 → u ≠ 0x40 → u ≠ 0x50 → u ≠ 0x60 →
    ∃ r, decodeMicroOp u = .rejected r)

/-- Words written out from 30_encoding.md R71 and R81. The layout of decodeTableWord (A in bits 63..32, B in bits 95..64, absent
bits 0) is the model's choice (log 15), and so is that the decoder rejects byte 0x0f (log 11). -/
def Obligations.WrittenOutWordsDecode : Prop :=
  decodeTableWord 96 (0b00000000000000000000000000_10_0001 + 0x1000 * 2 ^ 32 + 0x1020 * 2 ^ 64) =
      some (.init 2 0x1000 0x1020) ∧
  decodeTableWord 96 (0b00000000000000000000000000_00_0010 + 0x2000 * 2 ^ 32 + 0x10 * 2 ^ 64) =
      some (.enc 0x2000 0x10) ∧
  decodeTableWord 32 0b00000000000000000000000000_00_0011 = some (.dec 0 0) ∧
  decodeTableWord 8 0b0000_0101 = some (.ark 5) ∧ decodeTableWord 8 0b0011_0000 = some .mc ∧
  decodeTableWord 32 0x42 = none ∧ decodeTableWord 8 0x0f = none

/-- 40_gf256.md R100. Its worked examples (57, AE) are the spec's own inference. -/
def Obligations.XtimeShiftsAndReduces : Prop :=
  (∀ b : Byte, (xtime b).toNat = if b.toNat < 128 then 2 * b.toNat else (2 * b.toNat - 256) ^^^ 0x1b) ∧
  xtime 0x00 = 0x00 ∧ xtime 0x80 = 0x1b ∧ xtime 0xff = 0xe5 ∧ xtime 0x8d = 0x01 ∧
  xtime 0x57 = 0xae ∧ xtime 0xae = 0x47

/-- 40_gf256.md R104: the table of constants. -/
def Obligations.GmulConstants : Prop :=
  ∀ a : Byte,
    gmul a 0x01 = a ∧
    gmul a 0x02 = xtime a ∧
    gmul a 0x03 = xtime a ^^^ a ∧
    gmul a 0x09 = xtime (xtime (xtime a)) ^^^ a ∧
    gmul a 0x0b = xtime (xtime (xtime a)) ^^^ xtime a ^^^ a ∧
    gmul a 0x0d = xtime (xtime (xtime a)) ^^^ xtime (xtime a) ^^^ a ∧
    gmul a 0x0e = xtime (xtime (xtime a)) ^^^ xtime (xtime a) ^^^ xtime a

/-- 40_gf256.md R103's inference, 'gmul is the product in GF(2^8) modulo 0x11B, so gmul(a, k) = gmul(k, a)': the unit, doubling
modulo 0x11B (R100, R101), distributivity over R102's addition, and commutativity determine the product. -/
def Obligations.GmulIsTheFieldProduct : Prop :=
  (∀ a : Byte, gmul a 0x01 = a ∧ gmul 0x01 a = a) ∧
  (∀ a k : Byte, gmul ((a <<< 1) ^^^ (if a.getLsbD 7 then 0x1b else 0x00)) k =
    (gmul a k <<< 1) ^^^ (if (gmul a k).getLsbD 7 then 0x1b else 0x00)) ∧
  (∀ a k : Byte, gmul a k = gmul k a) ∧
  (∀ a b k : Byte, gmul (gadd a b) k = gadd (gmul a k) (gmul b k))

/-- 41_sbox.md R113, over the tables R110 and R112 print (log 17). -/
def Obligations.InverseTableInvertsTable : Prop :=
  ∀ x : Byte, invSbox (sbox x) = x ∧ sbox (invSbox x) = x ∧ sbox x ≠ x ∧ sbox x ≠ x ^^^ 0xff

/-- 41_sbox.md R111, general knowledge in the spec (log 17). -/
def Obligations.SboxIsAffineOfInverse : Prop :=
  sbox 0 = affine 0 ∧ ∀ x : Byte, x ≠ 0 → ∃ y : Byte, gmul x y = 1 ∧ sbox x = affine y

/-- 42_key_schedule.md R123 (log 17). -/
def Obligations.RoundConstants : Prop :=
  (List.range' 1 10).map rcon = [0x01, 0x02, 0x04, 0x08, 0x10, 0x20, 0x40, 0x80, 0x1b, 0x36] ∧
  ∀ j, 1 ≤ j → rcon (j + 1) = xtime (rcon j)

/-- 42_key_schedule.md R120, R121, R122, R124. -/
def Obligations.KeyExpansionRecurrence : Prop :=
  ∀ (nk : KeySize) (key : Vector Byte (4 * nk.words)) (rest : Schedule),
    (nk.scheduleWords = 4 * (nk.words + 6 + 1) ∧ nk.words ∈ [4, 6, 8]) ∧
    (∀ (i j : Nat) (hi : i < nk.words) (hj : j < 4),
      (wordAt (keyExpansion nk key rest) i)[j] = key[4 * i + j]) ∧
    (∀ (i j : Nat) (hj : j < 4), nk.words ≤ i → i < nk.scheduleWords →
      let w := keyExpansion nk key rest
      (wordAt w i)[j] = (wordAt w (i - nk.words))[j] ^^^
        (if i % nk.words = 0 then
          sbox ((wordAt w (i - 1))[(j + 1) % 4]'(by omega)) ^^^ (if j = 0 then rcon (i / nk.words) else 0)
        else if nk = .nk8 ∧ i % nk.words = 4 then sbox (wordAt w (i - 1))[j]
        else (wordAt w (i - 1))[j])) ∧
    (∀ other : Schedule, sameKeys nk (keyExpansion nk key rest) (keyExpansion nk key other))

/-- 42_key_schedule.md R125. -/
def Obligations.RoundKeyIsSliceOfSchedule : Prop :=
  ∀ (w : Schedule) (r c j : Nat) (hr : r ≤ 14) (hc : c < 4) (hj : j < 4),
    (roundKey w r)[j + 4 * c] = (w[4 * r + c])[j]

/-- 43_forward_round.md R140: result, completion and frame of SB. -/
def Obligations.SubBytesMeaning : Prop :=
  (∀ s : State, ∃ b : Block, exec .sb s = .next { s with mat := b } ∧ ∀ (k : Nat) (hk : k < 16), b[k] = sbox s.mat[k]) ∧
  Function.Bijective subBytes ∧
  subBytes (hexBlock 0) = hexBlock 0x63636363636363636363636363636363 ∧
  subBytes (hexBlock 0x000102030405060708090a0b0c0d0e0f) = hexBlock 0x637c777bf26b6fc53001672bfed7ab76

/-- 43_forward_round.md R141: result, completion and frame of SR. The example is the spec's own inference. -/
def Obligations.ShiftRowsMeaning : Prop :=
  (∀ s : State, ∃ b : Block, exec .sr s = .next { s with mat := b } ∧
    ∀ (r c : Nat) (hr : r < 4) (hc : c < 4), b[r + 4 * c] = s.mat[r + 4 * ((c + r) % 4)]'(by omega)) ∧
  (∀ (b : Block) (c : Nat) (hc : c < 4), (shiftRows b)[4 * c] = b[4 * c]) ∧
  (∀ b : Block, (∀ (r c : Nat) (hr : r < 4) (hc : c < 4), b[r + 4 * c] = b[r]) → shiftRows b = b) ∧
  (∀ b : Block, shiftRows (shiftRows (shiftRows (shiftRows b))) = b) ∧
  shiftRows (hexBlock 0x000102030405060708090a0b0c0d0e0f) = hexBlock 0x00050a0f04090e03080d02070c01060b

/-- 43_forward_round.md R142: result, completion and frame of MC. The examples, and that InvMixColumns inverts MC (R166),
are the spec's own inferences. -/
def Obligations.MixColumnsMeaning : Prop :=
  (∀ s : State, ∃ b : Block, exec .mc s = .next { s with mat := b } ∧
    ∀ (c : Nat) (hc : c < 4),
      let a0 := s.mat[4 * c]
      let a1 := s.mat[4 * c + 1]
      let a2 := s.mat[4 * c + 2]
      let a3 := s.mat[4 * c + 3]
      b[4 * c] = xtime a0 ^^^ (xtime a1 ^^^ a1) ^^^ a2 ^^^ a3 ∧
      b[4 * c + 1] = a0 ^^^ xtime a1 ^^^ (xtime a2 ^^^ a2) ^^^ a3 ∧
      b[4 * c + 2] = a0 ^^^ a1 ^^^ xtime a2 ^^^ (xtime a3 ^^^ a3) ∧
      b[4 * c + 3] = (xtime a0 ^^^ a0) ^^^ a1 ^^^ a2 ^^^ xtime a3) ∧
  (∀ (b : Block) (v : Byte) (c : Nat) (hc : c < 4), (∀ (r : Nat) (hr : r < 4), b[r + 4 * c] = v) →
    ∀ (r : Nat) (hr : r < 4), (mixColumns b)[r + 4 * c] = v) ∧
  (∀ x y : Block, mixColumns (Block.xor x y) = Block.xor (mixColumns x) (mixColumns y)) ∧
  (∀ b : Block, invMixColumns (mixColumns b) = b) ∧
  mixColumns (hexBlock 0xdb135345f20a225cd4d4d4d500000000) = hexBlock 0x8e4da1bc9fdc589dd5d5d7d600000000

/-- 43_forward_round.md R143: result, completion and frame of ARK. `r > NR` is
Obligations.IllFormedMicroOpsAreRefused. The example is the spec's own inference (from R143 and R125, through R124). -/
def Obligations.AddRoundKeyMeaning : Prop :=
  (∀ (r : BitVec 4) (s : State), r.toNat ≤ s.nr → ∃ b : Block, exec (.ark r) s = .next { s with mat := b } ∧
    ∀ (j c : Nat) (hj : j < 4) (hc : c < 4), b[j + 4 * c] = s.mat[j + 4 * c] ^^^ (wordAt s.w (4 * r.toNat + c))[j]) ∧
  (∀ (w : Schedule) (r : Nat) (b : Block), roundKey w r = Block.zero → addRoundKey w r b = b) ∧
  (∀ (w : Schedule) (r : Nat) (b : Block), addRoundKey w r (addRoundKey w r b) = b) ∧
  (∀ rest : Schedule,
    addRoundKey
      (keyExpansion .nk8 (hexBytes 32 0x000102030405060708090a0b0c0d0e0f101112131415161718191a1b1c1d1e1f) rest) 0
      (hexBlock 0x00112233445566778899aabbccddeeff) = hexBlock 0x00102030405060708090a0b0c0d0e0f0)

/-- 44_inverse_round.md R160: result, completion and frame of ISR. That ISR and SR undo each other is R160's own
inference (from R160 and R141). -/
def Obligations.InvShiftRowsMeaning : Prop :=
  (∀ s : State, ∃ b : Block, exec .isr s = .next { s with mat := b } ∧
    ∀ (r c : Nat) (hr : r < 4) (hc : c < 4), b[r + 4 * ((c + r) % 4)]'(by omega) = s.mat[r + 4 * c]) ∧
  (∀ (b : Block) (c : Nat) (hc : c < 4), (invShiftRows b)[4 * c] = b[4 * c]) ∧
  (∀ b : Block, invShiftRows (shiftRows b) = b ∧ shiftRows (invShiftRows b) = b) ∧
  invShiftRows (hexBlock 0x000102030405060708090a0b0c0d0e0f) = hexBlock 0x000d0a0704010e0b0805020f0c090603

/-- 44_inverse_round.md R161: result, completion and frame of ISB. That ISB and InvShiftRows commute is R161's own
inference (from R160 and R161). -/
def Obligations.InvSubBytesMeaning : Prop :=
  (∀ s : State, ∃ b : Block, exec .isb s = .next { s with mat := b } ∧
    ∀ (k : Nat) (hk : k < 16), b[k] = invSbox s.mat[k]) ∧
  invSubBytes (hexBlock 0x63636363636363636363636363636363) = hexBlock 0 ∧
  (∀ b : Block, invSubBytes (subBytes b) = b) ∧
  (∀ b : Block, invSubBytes (invShiftRows b) = invShiftRows (invSubBytes b)) ∧
  invSubBytes (hexBlock 0x000102030405060708090a0b0c0d0e0f) = hexBlock 0x52096ad53036a538bf40a39e81f3d7fb

/-- 44_inverse_round.md R162: result, completion and frame of IMC. The example is the spec's own inference. -/
def Obligations.InvMixColumnsMeaning : Prop :=
  (∀ s : State, ∃ b : Block, exec .imc s = .next { s with mat := b } ∧
    ∀ (c : Nat) (hc : c < 4),
      let a0 := s.mat[4 * c]
      let a1 := s.mat[4 * c + 1]
      let a2 := s.mat[4 * c + 2]
      let a3 := s.mat[4 * c + 3]
      b[4 * c] = gmul a0 0x0e ^^^ gmul a1 0x0b ^^^ gmul a2 0x0d ^^^ gmul a3 0x09 ∧
      b[4 * c + 1] = gmul a0 0x09 ^^^ gmul a1 0x0e ^^^ gmul a2 0x0b ^^^ gmul a3 0x0d ∧
      b[4 * c + 2] = gmul a0 0x0d ^^^ gmul a1 0x09 ^^^ gmul a2 0x0e ^^^ gmul a3 0x0b ∧
      b[4 * c + 3] = gmul a0 0x0b ^^^ gmul a1 0x0d ^^^ gmul a2 0x09 ^^^ gmul a3 0x0e) ∧
  (∀ (b : Block) (v : Byte) (c : Nat) (hc : c < 4), (∀ (r : Nat) (hr : r < 4), b[r + 4 * c] = v) →
    ∀ (r : Nat) (hr : r < 4), (invMixColumns b)[r + 4 * c] = v) ∧
  (∀ x y : Block, invMixColumns (Block.xor x y) = Block.xor (invMixColumns x) (invMixColumns y)) ∧
  (∀ b : Block, (b[0], b[1], b[2], b[3]) = (0x8e, 0x4d, 0xa1, 0xbc) →
    let v := invMixColumns b
    (v[0], v[1], v[2], v[3]) = (0xdb, 0x13, 0x53, 0x45))

/-- 30_encoding.md R82; that FWD and INV hold no ill-formed micro-op is R82's own inference (from R145 and R165). Where the
refusal is raised, and its name, are the model's (log 11). -/
def Obligations.IllFormedMicroOpsAreRefused : Prop :=
  (∀ (s : State) (u : Byte),
    7 ≤ (clsField u).toNat ∨ (1 ≤ (clsField u).toNat ∧ (clsField u).toNat ≤ 6 ∧ rndField u ≠ 0) ∨
      (clsField u = 0 ∧ s.nr < (rndField u).toNat) →
    runMicroOp u s = .refused (.illFormedMicroOp u)) ∧
  (∀ s : State, runMicroOp 0x0f s = .refused (.illFormedMicroOp 0x0f)) ∧
  (∀ (s : State) (u : Byte), u ∈ fwdProgram s.nr ∨ u ∈ invProgram s.nr → ∃ t, runMicroOp u s = .next t)

/-- 43_forward_round.md R145 and 44_inverse_round.md R165: the listings. -/
def Obligations.MicroprogramListings : Prop :=
  fwdProgram 14 = (hexBytes 56
    0x001020300110203002102030031020300410203005102030061020300710203008102030091020300a1020300b1020300c1020300d10200e).toList ∧
  invProgram 14 = (hexBytes 56
    0x0e50400d6050400c6050400b6050400a605040096050400860504007605040066050400560504004605040036050400260504001605040_00).toList ∧
  ∀ nk : KeySize, (fwdProgram nk.rounds).length = 4 * nk.rounds ∧ (invProgram nk.rounds).length = 4 * nk.rounds

/-- 43_forward_round.md R145 and 44_inverse_round.md R165, inferences of the spec: the two readings of R80 agree. -/
def Obligations.MicroprogramsRunTheCiphers : Prop :=
  ∀ s : State,
    runMicroOps (fwdProgram s.nr) s = .next { s with mat := cipher s.w s.nr s.mat } ∧
    runMicroOps (invProgram s.nr) s = .next { s with mat := invCipher s.w s.nr s.mat }

/-- 44_inverse_round.md R166, an inference of the spec, first bullet. -/
def Obligations.InvCipherInvertsCipher : Prop :=
  ∀ (w : Schedule) (nr : Nat) (x : Block), 1 ≤ nr →
    invCipher w nr (cipher w nr x) = x ∧ cipher w nr (invCipher w nr x) = x

/-- 44_inverse_round.md R166, an inference of the spec, second bullet. -/
def Obligations.MixColumnsAndItsInverse : Prop :=
  ∀ b : Block, invMixColumns (mixColumns b) = b ∧ mixColumns (invMixColumns b) = b

/-- 43_forward_round.md R144. -/
def Obligations.CipherStructure : Prop :=
  (∀ (w : Schedule) (nr : Nat) (x : Block), 1 ≤ nr → ∃ s : Nat → Block,
    s 0 = addRoundKey w 0 x ∧
    (∀ r, 1 ≤ r → r < nr → s r = addRoundKey w r (mixColumns (shiftRows (subBytes (s (r - 1)))))) ∧
    cipher w nr x = addRoundKey w nr (shiftRows (subBytes (s (nr - 1))))) ∧
  (∀ (w : Schedule) (nr : Nat), 1 ≤ nr →
    Function.Bijective (cipher w nr) ∧ Function.LeftInverse (invCipher w nr) (cipher w nr)) ∧
  (∀ rest : Schedule,
    cipher
      (keyExpansion .nk8 (hexBytes 32 0x000102030405060708090a0b0c0d0e0f101112131415161718191a1b1c1d1e1f) rest) 14
      (hexBlock 0x00112233445566778899aabbccddeeff) = hexBlock 0x8ea2b7ca516745bfeafc49904b496089)

/-- 45_cbc_commands.md R181: result, completion and frame of INIT. That it keeps S (log 5) and CUR, SEQ and SAVE (log 6) is the
model's. -/
def Obligations.InitLoadsTheContext : Prop :=
  (∀ (ksz : BitVec 2) (nk : KeySize) (a b : Word32) (s : State),
    keySizeOf ksz = some nk → InitReady s nk a b →
      ∃ (w : Schedule) (n : Nat),
        exec (.init ksz a b) s =
          .next { s with ctxValid := true, nk := nk, w := w, cv := s.mem.bytes b.toNat 16,
                         status := 0x00, phase := .idle, draws := n } ∧
        ∀ rest : Schedule, sameKeys nk w (keyExpansion nk (s.mem.bytes a.toNat (4 * nk.words)) rest)) ∧
  (∀ (a b : Word32) (s : State), ∃ t, exec (.init 3 a b) s = .next t ∧
    t.status = 0x02 ∧ t.ctxValid = false ∧ t.phase = .idle ∧ t.mem = s.mem) ∧
  (∀ (ksz : BitVec 2) (nk : KeySize) (a b : Word32) (s : State), keySizeOf ksz = some nk →
    (s.params.inRange (keyRegion nk a) = false ∨ s.params.inRange (ivRegion b) = false) →
      ∃ t, exec (.init ksz a b) s = .next t ∧
        t.status = 0x05 ∧ t.ctxValid = false ∧ t.phase = .idle ∧ t.mem = s.mem)

/-- 30_encoding.md R73, with the decoding of R75 and R76. That a rejected command ends in ERR_ILLEGAL is
Obligations.ErrorsInTheOrderOfChecks. -/
def Obligations.KeySizesOfKsz : Prop :=
  (keySizeOf 0).map (fun k => (k.words, k.rounds, 4 * k.words)) = some (4, 10, 16) ∧
  (keySizeOf 1).map (fun k => (k.words, k.rounds, 4 * k.words)) = some (6, 12, 24) ∧
  (keySizeOf 2).map (fun k => (k.words, k.rounds, 4 * k.words)) = some (8, 14, 32) ∧
  keySizeOf 3 = none ∧
  (∀ (a b : Word32) (s : State), ∃ t, exec (.init 3 a b) s = .next t ∧ t.status = 0x02) ∧
  (∀ (ksz : BitVec 2) (a b : Word32), ksz ≠ 0 →
    decodeCommand ⟨cmdWord ksz 2, a, b⟩ = .rejected .keySizeBits ∧
    decodeCommand ⟨cmdWord ksz 3, a, b⟩ = .rejected .keySizeBits)

/-- 45_cbc_commands.md R184. -/
def Obligations.EncBlockStep : Prop :=
  ∀ (s : State) (a : Nat), s.params.refusedAt a 16 = none →
    let c := cipher s.w s.nr (Block.xor (s.mem.bytes a 16) s.cv)
    encBlock a s = .next { s with mat := c, mem := s.mem.writeBytes a c.toList, cv := c }

/-- 45_cbc_commands.md R185. -/
def Obligations.DecBlockStep : Prop :=
  ∀ (s : State) (a : Nat), s.params.refusedAt a 16 = none →
    let c := s.mem.bytes a 16
    let p := Block.xor (invCipher s.w s.nr c) s.cv
    decBlock a s = .next { s with mat := p, mem := s.mem.writeBytes a p.toList, save := c, cv := c }

/-- 45_cbc_commands.md R182, whose closed form the spec marks as derived: result, completion and frame of ENC. -/
def Obligations.EncryptsTheBuffer : Prop :=
  ∀ (s : State) (a len : Word32), s.mem.wf = true → BufferReady s a len →
    ∃ t, exec (.enc a len) s = .next t ∧
      t.status = 0x00 ∧ t.phase = .idle ∧ t.ctxValid = true ∧
      (∀ j, j < blockCount len →
        blockOfBuffer t.mem a j =
          cipher s.w s.nr (Block.xor (blockOfBuffer s.mem a j) (chainInto s.cv t.mem a j))) ∧
      t.cv = chainInto s.cv t.mem a (blockCount len) ∧
      (∀ x, (bufRegion a len).has x = false → t.mem.read x = s.mem.read x) ∧
      t.nk = s.nk ∧ t.w = s.w ∧ t.save = s.save ∧ t.cur = s.cur ∧ t.params = s.params ∧ t.inputs = s.inputs ∧
      t.seen = s.seen

/-- 45_cbc_commands.md R183, whose closed form the spec marks as derived: result, completion and frame of DEC. -/
def Obligations.DecryptsTheBuffer : Prop :=
  ∀ (s : State) (a len : Word32), s.mem.wf = true → BufferReady s a len →
    ∃ t, exec (.dec a len) s = .next t ∧
      t.status = 0x00 ∧ t.phase = .idle ∧ t.ctxValid = true ∧
      (∀ j, j < blockCount len →
        blockOfBuffer t.mem a j =
          Block.xor (invCipher s.w s.nr (blockOfBuffer s.mem a j)) (chainInto s.cv s.mem a j)) ∧
      t.cv = chainInto s.cv s.mem a (blockCount len) ∧
      (∀ x, (bufRegion a len).has x = false → t.mem.read x = s.mem.read x) ∧
      t.nk = s.nk ∧ t.w = s.w ∧ t.cur = s.cur ∧ t.params = s.params ∧ t.inputs = s.inputs ∧
      t.seen = s.seen

/-- 45_cbc_commands.md R190, an inference of the spec. -/
def Obligations.EmptyBufferChangesNothing : Prop :=
  ∀ (s : State) (a : Word32), s.ctxValid = true →
    exec (.enc a 0) s = .next { s with status := 0x00, phase := .idle } ∧
    exec (.dec a 0) s = .next { s with status := 0x00, phase := .idle }

/-- 60_exceptions.md R221, R222, R223, R225, R226, R227. The command as one step (log 1), SEQ at issue (log 6) and what the
error entry leaves in the unspecified registers (log 3) are the model's choices. -/
def Obligations.ErrorsInTheOrderOfChecks : Prop :=
  ∀ (s : State) (d : Descriptor) (rest : List Input), s.phase = .idle → s.inputs = .issue d :: rest →
    let u := (s.withInputs rest).issued d
    ((∃ r, decodeCommand d = .rejected r) → step s = .next (u.raiseError .illegal)) ∧
    (decodeCommand d = .instr (.init 3 d.a d.b) → step s = .next (u.raiseError .keyLen)) ∧
    (∀ (ksz : BitVec 2) (nk : KeySize), decodeCommand d = .instr (.init ksz d.a d.b) → keySizeOf ksz = some nk →
      (s.params.inRange (keyRegion nk d.a) = false ∨ s.params.inRange (ivRegion d.b) = false) →
        step s = .next (u.raiseError .bounds)) ∧
    (decodeCommand d = .instr (.enc d.a d.b) ∨ decodeCommand d = .instr (.dec d.a d.b) →
      (s.ctxValid = false → step s = .next (u.raiseError .noCtx)) ∧
      (s.ctxValid = true → d.b.toNat % 16 ≠ 0 → step s = .next (u.raiseError .misaligned)) ∧
      (s.ctxValid = true → d.b.toNat % 16 = 0 → s.params.inRange (bufRegion d.a d.b) = false →
        step s = .next (u.raiseError .bounds)))

/-- 60_exceptions.md R224. That the unspecified registers hold these free values, and that CUR and SEQ are kept, is the model's
choice (log 3, log 16). -/
def Obligations.ErrorEntry : Prop :=
  ∀ (s : State) (c : StatusCode),
    let t := s.raiseError c
    t.ctxValid = false ∧ t.status = statusByte c ∧ t.phase = .idle ∧ t.mem = s.mem ∧
    t.nk = Config.freeKeySize s.draws ∧
    (∀ (i j : Nat) (hi : i < 60) (hj : j < 4), (t.w[i])[j] = Config.freeByte (s.draws + 4 * i + j)) ∧
    (∀ (k : Nat) (hk : k < 16), t.cv[k] = Config.freeByte (s.draws + 240 + k) ∧
      t.mat[k] = Config.freeByte (s.draws + 256 + k) ∧ t.save[k] = Config.freeByte (s.draws + 272 + k)) ∧
    t.cur = s.cur ∧ t.seq = s.seq ∧ t.params = s.params ∧ t.inputs = s.inputs ∧ t.seen = s.seen

/-- 60_exceptions.md R220: the table of codes. -/
def Obligations.StatusCodes : Prop :=
  statusByte .ok = 0x00 ∧ statusByte .illegal = 0x01 ∧ statusByte .keyLen = 0x02 ∧ statusByte .noCtx = 0x03 ∧
  statusByte .misaligned = 0x04 ∧ statusByte .bounds = 0x05 ∧ ∀ c, (statusByte c).toNat ≤ 5

/-- 70_reset_and_hazards.md R259 and 60_exceptions.md R228: the unit of observation. The command as
one step is the model's choice (log 1). -/
def Obligations.ResponseIsOkOrUntouchedMemory : Prop :=
  ∀ (s t : State) (d : Descriptor) (rest : List Input),
    s.phase = .idle → s.inputs = .issue d :: rest → step s = .next t →
      t.phase = .idle ∧ t.inputs = rest ∧ t.cur = d ∧
      ((t.status = 0x00 ∧ t.ctxValid = true) ∨
        (1 ≤ t.status.toNat ∧ t.status.toNat ≤ 5 ∧ t.ctxValid = false ∧ t.mem = s.mem))

/-- 60_exceptions.md R229: the only way back to a usable context is a new INIT. The command as
one step is the model's choice (log 1). -/
def Obligations.OnlyInitOpensASession : Prop :=
  ∀ (s : State) (d : Descriptor) (rest : List Input),
    s.phase = .idle → s.inputs = .issue d :: rest → s.ctxValid = false →
    (∀ ksz a b, decodeCommand d ≠ .instr (.init ksz a b)) →
      ∃ t, step s = .next t ∧ t.ctxValid = false ∧ (t.status = 0x01 ∨ t.status = 0x03) ∧ t.mem = s.mem

/-- 10_state.md R25 and 42_key_schedule.md R128: no command other than INIT writes W. -/
def Obligations.ScheduleAndKeySizeStayWithTheContext : Prop :=
  ∀ (i : Instr) (s t : State), (∀ ksz a b, i ≠ .init ksz a b) → exec i s = .next t → t.ctxValid = true →
    s.ctxValid = true ∧ t.w = s.w ∧ t.nk = s.nk

/-- 20_memory.md R48, the writes: and in no other way. -/
def Obligations.OnlyTheBufferIsWritten : Prop :=
  ∀ (i : Instr) (s t : State), exec i s = .next t →
    match i with
    | .enc a len => ∀ x, (bufRegion a len).has x = false → t.mem.read x = s.mem.read x
    | .dec a len => ∀ x, (bufRegion a len).has x = false → t.mem.read x = s.mem.read x
    | .init _ _ _ | .ark _ | .sb | .sr | .mc | .isb | .isr | .imc => t.mem = s.mem

/-- 20_memory.md R52. That the stop is the fault notAdmitted (log 9), at which address (log 23) and in which step (log 25) is the
model's choice. -/
def Obligations.UnansweredAccessIsStuck : Prop :=
  (∀ (s : State) (a len : Word32) (x : Nat), bufferError s a len = none →
    s.params.refusedAt a.toNat len.toNat = some x →
      exec (.enc a len) s = .fault (.notAdmitted x) ∧ exec (.dec a len) s = .fault (.notAdmitted x)) ∧
  (∀ (s : State) (ksz : BitVec 2) (nk : KeySize) (a b : Word32) (x : Nat), keySizeOf ksz = some nk →
    initInRange s nk a b = true →
    (s.params.refusedAt a.toNat (4 * nk.words) = some x ∨
      (s.params.refusedAt a.toNat (4 * nk.words) = none ∧ s.params.refusedAt b.toNat 16 = some x)) →
      exec (.init ksz a b) s = .fault (.notAdmitted x)) ∧
  (∀ (s : State) (a len : Word32) (x : Nat), s.phase = .busy → s.inputs = [] →
    (decodeCommand s.cur = .instr (.enc a len) ∨ decodeCommand s.cur = .instr (.dec a len)) →
    bufferError s a len = none → s.seq.blk < blockCount len → s.seq.step = 0 →
    s.params.refusedAt (blockAddr a s.seq.blk) 16 = some x → step s = .fault (.notAdmitted x))

/-- 45_cbc_commands.md R180: every command whose memory accesses are all admitted ends. That the input `issue`
ends it in one step is the model's choice (log 1). -/
def Obligations.AnsweredCommandsEnd : Prop :=
  ∀ (s : State) (d : Descriptor) (rest : List Input),
    s.phase = .idle → s.inputs = .issue d :: rest → s.params.holes = [] →
      ∃ t, step s = .next t ∧ t.phase = .idle ∧ t.inputs = rest

/-- 45_cbc_commands.md R186, an inference of the spec, for ENC. -/
def Obligations.EncContinuesAcrossCalls : Prop :=
  ∀ (s : State) (a l1 l2 l : Word32), s.params.wf → BufferReady s a l →
    l1.toNat % 16 = 0 → l2.toNat % 16 = 0 → l.toNat = l1.toNat + l2.toNat →
      ∃ t u v, exec (.enc a l1) s = .next t ∧ exec (.enc (a + l1) l2) t = .next u ∧ exec (.enc a l) s = .next v ∧
        u.mem = v.mem ∧ u.cv = v.cv ∧ u.w = v.w ∧ u.nk = v.nk ∧ u.status = v.status ∧ u.ctxValid = v.ctxValid

/-- 45_cbc_commands.md R186, an inference of the spec, for DEC. -/
def Obligations.DecContinuesAcrossCalls : Prop :=
  ∀ (s : State) (a l1 l2 l : Word32), s.params.wf → BufferReady s a l →
    l1.toNat % 16 = 0 → l2.toNat % 16 = 0 → l.toNat = l1.toNat + l2.toNat →
      ∃ t u v, exec (.dec a l1) s = .next t ∧ exec (.dec (a + l1) l2) t = .next u ∧ exec (.dec a l) s = .next v ∧
        u.mem = v.mem ∧ u.cv = v.cv ∧ u.w = v.w ∧ u.nk = v.nk ∧ u.status = v.status ∧ u.ctxValid = v.ctxValid

/-- 45_cbc_commands.md R188, an inference of the spec. -/
def Obligations.DecryptOfEncryptIsThePlaintext : Prop :=
  ∀ (s : State) (ksz : BitVec 2) (nk : KeySize) (k v a len : Word32),
    s.mem.wf = true → keySizeOf ksz = some nk → InitReady s nk k v →
    len.toNat % 16 = 0 → s.params.inRange (bufRegion a len) = true → answers s.params (bufRegion a len) →
    apart (bufRegion a len) (keyRegion nk k) → apart (bufRegion a len) (ivRegion v) →
      ∃ s1 s2 s3 s4, exec (.init ksz k v) s = .next s1 ∧ exec (.enc a len) s1 = .next s2 ∧
        exec (.init ksz k v) s2 = .next s3 ∧ exec (.dec a len) s3 = .next s4 ∧
        s2.status = 0x00 ∧ s4.status = 0x00 ∧ s4.mem = s.mem ∧
        s2.cv = chainInto (s.mem.bytes v.toNat 16) s2.mem a (blockCount len) ∧ s4.cv = s2.cv

/-- 45_cbc_commands.md R189, an inference of the spec. -/
def Obligations.OneFlippedBitSpoilsTwoBlocks : Prop :=
  ∀ (s : State) (m : Memory) (a len : Word32) (i q b : Nat),
    s.mem.wf = true → m.wf = true → BufferReady s a len → i < blockCount len → q < 16 → b < 8 →
    (∀ x, m.read x = if x = blockAddr a i + q then s.mem.read x ^^^ (1#8 <<< b) else s.mem.read x) →
      ∃ t u, exec (.dec a len) s = .next t ∧ exec (.dec a len) { s with mem := m } = .next u ∧
        (∀ j, j < blockCount len → j < i ∨ i + 1 < j → blockOfBuffer u.mem a j = blockOfBuffer t.mem a j) ∧
        blockOfBuffer u.mem a i =
          Block.xor (invCipher s.w s.nr (blockOfBuffer m a i)) (chainInto s.cv s.mem a i) ∧
        blockOfBuffer u.mem a i ≠ blockOfBuffer t.mem a i ∧
        (i + 1 < blockCount len → ∀ (k : Nat) (hk : k < 16),
          (blockOfBuffer u.mem a (i + 1))[k] =
            (blockOfBuffer t.mem a (i + 1))[k] ^^^ (if k = q then 1#8 <<< b else 0)) ∧
        u.cv = chainInto s.cv m a (blockCount len)

/-- 20_memory.md R56, an inference of the spec, with 10_state.md R25, R28 and R32: what no rule reads. -/
def Obligations.ResultDependsOnContextAndBufferOnly : Prop :=
  ∀ (s u : State) (a len : Word32), s.mem.wf = true → u.mem.wf = true →
    s.ctxValid = u.ctxValid → s.nk = u.nk → sameKeys s.nk s.w u.w → s.cv = u.cv → s.params = u.params →
    (∀ x, (bufRegion a len).has x = true → s.mem.read x = u.mem.read x) →
      ∀ i : Instr, i = .enc a len ∨ i = .dec a len →
        (∃ t v, exec i s = .next t ∧ exec i u = .next v ∧ t.status = v.status ∧ t.ctxValid = v.ctxValid ∧
          (∀ x, (bufRegion a len).has x = true → t.mem.read x = v.mem.read x) ∧
          (t.ctxValid = true → t.cv = v.cv)) ∨
        (∃ e, exec i s = .fault e ∧ exec i u = .fault e)

/-- 45_cbc_commands.md R180: issue, decode, then the command's rule. The model's choices: the command as one step
(log 1), SEQ at issue (log 6), the input `micro` (log 10), withFetchWord (log 14) and the layout of its bits (log 15). -/
def Obligations.StepRunsTheDecodedInstruction : Prop :=
  (∀ (s : State) (d : Descriptor) (rest : List Input) (i : Instr),
    s.phase = .idle → s.inputs = .issue d :: rest → decodeCommand d = .instr i →
      step s = exec i { s with inputs := rest, cur := d, phase := .busy, seq := ⟨0, 0⟩ }) ∧
  (∀ (s : State) (u : Byte) (rest : List Input) (i : Instr),
    s.phase = .idle → s.inputs = .micro u :: rest → decodeMicroOp u = .instr i →
      step s = exec i { s with inputs := rest }) ∧
  (∀ (s : State) (w : Nat) (i : Instr), decodeTableWord 8 w = some i →
    step (s.withFetchWord 8 w) = exec i { s with phase := .idle }) ∧
  (∀ (s : State) (nbits w : Nat) (i : Instr), nbits ≠ 8 → decodeTableWord nbits w = some i →
    step (s.withFetchWord nbits w) =
      exec i { s with phase := .busy, seq := ⟨0, 0⟩,
                      cur := ⟨BitVec.ofNat 32 w, BitVec.ofNat 32 (w >>> 32), BitVec.ofNat 32 (w >>> 64)⟩ })

/-- 30_encoding.md R80: both readings give the same results, for whole commands. The two readings as inputs `start` and `issue` are log 1. -/
def Obligations.SequencerRefinesTheCommand : Prop :=
  ∀ (s : State) (d : Descriptor) (k : Nat), s.phase = .idle → 2 + 4 * d.b.toNat ≤ k →
    Host.Core.run Sys2Proof.core k { s with inputs := [.start d] } = step { s with inputs := [.issue d] }

/-- The invariant Inv: 00_scope.md R8, 20_memory.md R46, 60_exceptions.md R220, 10_state.md R33. -/
def Obligations.EveryStepKeepsTheInvariant : Prop :=
  ∀ s t : State, Inv s → step s = .next t → Inv t

/-- Inv at reset; the values of STATUS and memory are the model's (log 2, log 7). -/
def Obligations.ResetHasTheInvariant : Prop :=
  Inv State.reset

/-- 10_state.md R37: the values the spec gives. -/
def Obligations.ResetState : Prop :=
  State.reset.ctxValid = false ∧ State.reset.phase = .idle

/-- 10_state.md R33 and 30_encoding.md R82: the model's defensive stop (log 24) is out of reach. -/
def Obligations.SequencerStaysInItsProgram : Prop :=
  ∀ s : State, Inv s → step s ≠ .fault .seqOutOfProgram ∧ (s.phase = .busy → ∀ e, step s ≠ .refused e)

/-- 00_scope.md R8: the parameters belong to the machine (log 8). -/
def Obligations.ParametersNeverChange : Prop :=
  ∀ s t : State, step s = .next t → t.params = s.params

/-- 70_reset_and_hazards.md R254: the host has no such move. That its next input waits instead is the model's choice (log 12; for a
micro-op log 10). -/
def Obligations.BusyCoreTakesNoCommand : Prop :=
  ∀ s t : State, s.phase = .busy → step s = .next t →
    ((∀ rest, s.inputs ≠ .reset :: rest) → t.cur = s.cur) ∧
    (∀ d rest, s.inputs = .issue d :: rest ∨ s.inputs = .start d :: rest → t.inputs = s.inputs) ∧
    (∀ u rest, s.inputs = .micro u :: rest → t.inputs = s.inputs)

/-- 70_reset_and_hazards.md R253, R260, 20_memory.md R54. That the host waits is log 12, the record of reads log 18, and what an
unanswered address gives the host log 26. -/
def Obligations.HostAccesses : Prop :=
  ∀ (s : State) (a : Word32) (v : Byte) (rest : List Input) (i : Input), i = .store a v ∨ i = .load a →
    s.inputs = i :: rest →
    (s.params.admits a.toNat = true → s.phase = .idle ∨ inBusyRegion s a.toNat = false →
      s.hostRead a.toNat = some (s.mem.read a.toNat) ∧
      (i = .store a v → step s = .next { s with inputs := rest, mem := s.mem.write a.toNat v }) ∧
      (i = .load a → step s = .next { s with inputs := rest, seen := (a.toNat, s.mem.read a.toNat) :: s.seen })) ∧
    (s.phase = .busy → inBusyRegion s a.toNat = true → s.hostRead a.toNat = none ∧ step s = coreMove s) ∧
    (s.params.admits a.toNat = false → s.phase = .idle ∨ inBusyRegion s a.toNat = false →
      s.hostRead a.toNat = none ∧ step s = .fault (.notAdmitted a.toNat)) ∧
    (∀ c ∈ s.observe.dmem, s.hostRead c.1 = some (s.mem.read c.1) ∧
      (s.phase = .busy → inBusyRegion s c.1 = false))

/-- 60_exceptions.md R237. -/
def Obligations.IdleKeepsEverything : Prop :=
  ∀ s : State, s.phase = .idle → s.inputs = [] → step s = .next s

/-- 70_reset_and_hazards.md R250; the unspecified registers hold the model's reset values (log 2). -/
def Obligations.ResetAtAnyTime : Prop :=
  ∀ (s : State) (rest : List Input), s.inputs = .reset :: rest →
    ∃ t, step s = .next t ∧ t.ctxValid = false ∧ t.phase = .idle ∧ t.params = s.params ∧ t.inputs = rest ∧ t.seen = s.seen ∧
      (s.phase = .idle → t.mem = s.mem) ∧
      t.nk = State.reset.nk ∧ t.w = State.reset.w ∧ t.cv = State.reset.cv ∧ t.mat = State.reset.mat ∧
      t.save = State.reset.save ∧ t.cur = State.reset.cur ∧ t.seq = State.reset.seq ∧ t.status = State.reset.status

/-- 70_reset_and_hazards.md R251. That its draws are these free values (log 16), over the part of the buffer that exists and
whether or not the checks would pass (log 13), is the model's. -/
def Obligations.ResetWhileBusy : Prop :=
  ∀ (s : State) (rest : List Input), s.phase = .busy → s.inputs = .reset :: rest → s.mem.wf = true →
    ∃ t, step s = .next t ∧ t.phase = .idle ∧ t.ctxValid = false ∧
      (∀ ksz a b, decodeCommand s.cur = .instr (.init ksz a b) → t.mem = s.mem) ∧
      (∀ a len, decodeCommand s.cur = .instr (.enc a len) ∨ decodeCommand s.cur = .instr (.dec a len) →
        (∀ x, (bufRegion a len).has x = false → t.mem.read x = s.mem.read x) ∧
        (∀ k, k < len.toNat → a.toNat + k < 2 ^ s.params.addrWidth →
          t.mem.read (a.toNat + k) = Config.freeByte (s.draws + k)))

/-- 46_padding_host.md R210, R211 (host side, log 20). The range of PadLen and the example are the spec's own inferences. -/
def Obligations.PaddingFillsTheLastBlock : Prop :=
  (∀ l : Nat, padLen l = 16 - l % 16 ∧ 1 ≤ padLen l ∧ padLen l ≤ 16 ∧ (padLen l = 16 ↔ l % 16 = 0)) ∧
  (∀ (policy : PadPolicy) (p : List Byte),
    (pad policy p).length % 16 = 0 ∧
    (p.length % 16 ≠ 0 → ∃ n : Nat, n = 16 - p.length % 16 ∧
      pad policy p = p ++ List.replicate n (BitVec.ofNat 8 n)) ∧
    (p.length % 16 = 0 → pad .fullBlock p = p ++ List.replicate 16 0x10 ∧ pad .none p = p)) ∧
  (∀ policy : PadPolicy, pad policy (hexBytes 14 0x00112233445566778899aabbccdd).toList =
    (hexBlock 0x00112233445566778899aabbccdd0202).toList)
end

