-- ==== Sys2Proof/Laws/Blocks.lean ====
section
/-! SUPPORT. Laws/Blocks.lean: one byte of each transform's result, so that no proof unfolds a transform. -/

namespace Sys2Proof

@[simp] theorem Word.getElem_zero (k : Nat) (hk : k < 4) : Word.zero[k] = 0 := by simp [Word.zero]
@[simp] theorem Block.getElem_zero (k : Nat) (hk : k < 16) : Block.zero[k] = 0 := by simp [Block.zero]

@[simp] theorem Word.getElem_xor (x y : Word) (k : Nat) (hk : k < 4) : (Word.xor x y)[k] = x[k] ^^^ y[k] := by
  simp [Word.xor]

@[simp] theorem Block.getElem_xor (x y : Block) (k : Nat) (hk : k < 16) : (Block.xor x y)[k] = x[k] ^^^ y[k] := by
  simp [Block.xor]

/-- XOR with the same block twice gives the block back. -/
@[simp] theorem Block.xor_xor_self (x y : Block) : Block.xor (Block.xor x y) y = x := by
  ext k hk
  simp

namespace Machine

@[simp] theorem getElem_subBytes (s : Block) (k : Nat) (hk : k < 16) : (subBytes s)[k] = sbox s[k] := by
  simp [subBytes]

@[simp] theorem getElem_invSubBytes (s : Block) (k : Nat) (hk : k < 16) : (invSubBytes s)[k] = invSbox s[k] := by
  simp [invSubBytes]

theorem getElem_shiftRows (s : Block) (i : Nat) (hi : i < 16) :
    (shiftRows s)[i] = s[i % 4 + 4 * ((i / 4 + i % 4) % 4)]'(by omega) := by
  simp [shiftRows]

theorem getElem_invShiftRows (s : Block) (i : Nat) (hi : i < 16) :
    (invShiftRows s)[i] = s[i % 4 + 4 * ((i / 4 + 4 - i % 4) % 4)]'(by omega) := by
  simp [invShiftRows]

theorem getElem_mixWith (m : Matrix4) (s : Block) (i : Nat) (hi : i < 16) :
    (mixWith m s)[i] = mixByte (m[i % 4]'(by omega)) (s[4 * (i / 4)]'(by omega)) (s[4 * (i / 4) + 1]'(by omega))
      (s[4 * (i / 4) + 2]'(by omega)) (s[4 * (i / 4) + 3]'(by omega)) := by
  simp [mixWith]

theorem getElem_roundKey (w : Schedule) (r k : Nat) (hk : k < 16) :
    (roundKey w r)[k] = (wordAt w (4 * r + k / 4))[k % 4]'(by omega) := by
  simp [roundKey]

@[simp] theorem getElem_addRoundKey (w : Schedule) (r : Nat) (s : Block) (k : Nat) (hk : k < 16) :
    (addRoundKey w r s)[k] = s[k] ^^^ (roundKey w r)[k] := by
  simp [addRoundKey]

@[simp] theorem getElem_subWord (w : Word) (k : Nat) (hk : k < 4) : (subWord w)[k] = sbox w[k] := by
  simp [subWord]

/-- A word of the schedule inside its 60 entries. -/
theorem wordAt_of_lt (w : Schedule) {i : Nat} (h : i < 60) : wordAt w i = w[i] := by
  simp [wordAt, Vector.getD, h]

/-- Setting a word changes that word and no other. -/
theorem wordAt_setIfInBounds (w : Schedule) (i j : Nat) (x : Word) (hj : j < 60) :
    wordAt (w.setIfInBounds i x) j = if i = j then x else wordAt w j := by
  rw [wordAt_of_lt _ hj, wordAt_of_lt _ hj, Vector.getElem_setIfInBounds]

end Machine

end Sys2Proof
end

