-- ==== Sys2Proof/Laws/Decode.lean ====
section
/-! SUPPORT. Laws/Decode.lean: the fields of an assembled code, and a code assembled from its fields. -/

namespace Sys2Proof

@[simp] theorem rsvField_cmdWord (ksz : BitVec 2) (op : BitVec 4) : rsvField (cmdWord ksz op) = 0#26 := by
  revert ksz op; decide

@[simp] theorem opField_cmdWord (ksz : BitVec 2) (op : BitVec 4) : opField (cmdWord ksz op) = op := by
  revert ksz op; decide

@[simp] theorem kszField_cmdWord (ksz : BitVec 2) (op : BitVec 4) : kszField (cmdWord ksz op) = ksz := by
  revert ksz op; decide

@[simp] theorem clsField_uopByte (cls rnd : BitVec 4) : clsField (uopByte cls rnd) = cls := by
  revert cls rnd; decide

@[simp] theorem rndField_uopByte (cls rnd : BitVec 4) : rndField (uopByte cls rnd) = rnd := by
  revert cls rnd; decide

/-- A CMD word is its fields (30_encoding.md R71). -/
theorem cmdWord_fields {cmd : Word32} (h : rsvField cmd = 0) : cmdWord (kszField cmd) (opField cmd) = cmd := by
  have h' : rsvField cmd ++ kszField cmd ++ opField cmd = cmd := by
    ext i hi
    simp only [rsvField, kszField, opField, BitVec.getElem_append, BitVec.getElem_extractLsb']
    split
    · rw [Nat.zero_add, BitVec.getLsbD_eq_getElem hi]
    · split
      · rw [← BitVec.getLsbD_eq_getElem hi]
        congr 1
        omega
      · rw [← BitVec.getLsbD_eq_getElem hi]
        congr 1
        omega
  rw [h] at h'
  exact h'

/-- A micro-op byte is its fields (30_encoding.md R81). -/
theorem uopByte_fields (u : Byte) : uopByte (clsField u) (rndField u) = u := by
  revert u; decide

end Sys2Proof
end

