-- ==== Sys2Proof/Laws/Memory.lean ====
section
/-! SUPPORT. Laws/Memory.lean: the laws of byte memory: a read after a write, every operation keeps the canonical form, and
canonical memories that read alike are equal. -/

namespace Sys2Proof.Machine.Memory

@[simp] theorem read_nil (a : Nat) : read [] a = unlisted := rfl

@[simp] theorem read_cons (k : Nat) (v : Byte) (m : Memory) (a : Nat) :
    read ((k, v) :: m) a = if a = k then v else read m a := rfl

/-- The canonical form above `lo`, one cell at a time. -/
theorem wfFrom_cons {lo : Option Nat} {k : Nat} {v : Byte} {m : Memory} :
    wfFrom lo ((k, v) :: m) = true ↔ (∀ l, lo = some l → l < k) ∧ v ≠ unlisted ∧ wfFrom (some k) m = true := by
  cases lo <;> simp [wfFrom, and_assoc]

/-- A lower bound may be lowered or dropped. -/
theorem wfFrom_mono {lo lo' : Option Nat} {m : Memory} (h : wfFrom lo m = true)
    (hlo : ∀ l, lo' = some l → ∃ k, lo = some k ∧ l ≤ k) : wfFrom lo' m = true := by
  cases m with
  | nil => rfl
  | cons c m =>
    obtain ⟨k, v⟩ := c
    rw [wfFrom_cons] at h ⊢
    refine ⟨fun l hl => ?_, h.2⟩
    obtain ⟨j, hj, hle⟩ := hlo l hl
    exact Nat.lt_of_le_of_lt hle (h.1 j hj)

/-- An address at or below the bound of a canonical memory is not listed. -/
theorem read_of_le {m : Memory} {lo a : Nat} (h : wfFrom (some lo) m = true) (ha : a ≤ lo) : m.read a = unlisted := by
  induction m generalizing lo with
  | nil => rfl
  | cons c m ih =>
    obtain ⟨k, v⟩ := c
    rw [wfFrom_cons] at h
    have hk := h.1 lo rfl
    rw [read_cons, if_neg (by omega)]
    exact ih h.2.2 (by omega)

/-- A write reads back. -/
theorem read_write_self {m : Memory} (h : m.wf = true) (a : Nat) (v : Byte) : (m.write a v).read a = v := by
  unfold wf at h
  generalize hlo : (none : Option Nat) = lo at h
  clear hlo
  induction m generalizing lo with
  | nil => by_cases hv : v = unlisted <;> simp [write, hv]
  | cons c m ih =>
    obtain ⟨k, x⟩ := c
    rw [wfFrom_cons] at h
    by_cases hv : v = unlisted
    · subst hv
      rcases Nat.lt_trichotomy a k with hk | rfl | hk
      · simp [write, hk, Nat.ne_of_lt hk, read_of_le h.2.2 (Nat.le_of_lt hk)]
      · simp [write, read_of_le h.2.2 (Nat.le_refl a)]
      · simp [write, Nat.not_lt_of_lt hk, Nat.ne_of_gt hk, ih _ h.2.2]
    · rcases Nat.lt_trichotomy a k with hk | rfl | hk
      · simp [write, hk, hv]
      · simp [write, hv]
      · simp [write, Nat.not_lt_of_lt hk, Nat.ne_of_gt hk, ih _ h.2.2]

/-- A write leaves every other address alone. -/
theorem read_write_other (m : Memory) {a x : Nat} (v : Byte) (h : x ≠ a) : (m.write a v).read x = m.read x := by
  induction m with
  | nil => by_cases hv : v = unlisted <;> simp [write, hv, h]
  | cons c m ih =>
    obtain ⟨k, y⟩ := c
    simp only [write]
    split
    · split <;> simp [h]
    · split
      · next hak =>
        subst hak
        split <;> simp [h]
      · simp [ih]

/-- A write above the bound keeps the canonical form. -/
theorem wfFrom_write {m : Memory} {lo : Option Nat} (h : wfFrom lo m = true) {a : Nat} (v : Byte)
    (ha : ∀ l, lo = some l → l < a) : wfFrom lo (m.write a v) = true := by
  induction m generalizing lo with
  | nil =>
    by_cases hv : v = unlisted
    · simp [write, hv, wfFrom]
    · simp only [write, hv, if_false, wfFrom_cons]
      exact ⟨ha, hv, rfl⟩
  | cons c m ih =>
    obtain ⟨k, x⟩ := c
    have hc := wfFrom_cons.mp h
    by_cases hak : a < k
    · by_cases hv : v = unlisted
      · simpa [write, hak, hv] using h
      · simp only [write, hak, hv, if_true, if_false]
        exact wfFrom_cons.mpr ⟨ha, hv, wfFrom_cons.mpr ⟨fun l hl => by cases hl; exact hak, hc.2⟩⟩
    · by_cases hek : a = k
      · subst hek
        by_cases hv : v = unlisted
        · simp only [write, hak, hv, if_true, if_false]
          cases lo with
          | none => exact wfFrom_mono hc.2.2 (fun l hl => by cases hl)
          | some l => exact wfFrom_mono hc.2.2 (fun j hj => ⟨a, rfl, by cases hj; exact Nat.le_of_lt (ha l rfl)⟩)
        · simp only [write, hak, hv, if_true, if_false]
          exact wfFrom_cons.mpr ⟨ha, hv, hc.2.2⟩
      · simp only [write, hak, hek, if_false]
        exact wfFrom_cons.mpr ⟨hc.1, hc.2.1, ih hc.2.2 (fun l hl => by cases hl; omega)⟩

/-- Writing one byte keeps the canonical form. -/
theorem wf_write {m : Memory} (h : m.wf = true) (a : Nat) (v : Byte) : (m.write a v).wf = true :=
  wfFrom_write h v (fun l hl => by cases hl)

/-- Writing bytes keeps the canonical form. -/
theorem wf_writeBytes {m : Memory} (h : m.wf = true) (a : Nat) (vs : List Byte) : (m.writeBytes a vs).wf = true := by
  induction vs generalizing m a with
  | nil => exact h
  | cons v vs ih => exact ih (wf_write h a v) (a + 1)

/-- Bytes outside the written ones read as before. -/
theorem read_writeBytes_other (m : Memory) (a : Nat) (vs : List Byte) {x : Nat} (h : x < a ∨ a + vs.length ≤ x) :
    (m.writeBytes a vs).read x = m.read x := by
  induction vs generalizing m a with
  | nil => rfl
  | cons v vs ih =>
    simp only [List.length_cons] at h
    rw [writeBytes, ih (m.write a v) (a + 1) (by omega), read_write_other m v (by omega)]

/-- A written byte reads back. -/
theorem read_writeBytes {m : Memory} (h : m.wf = true) (a : Nat) (vs : List Byte) (k : Nat) (hk : k < vs.length) :
    (m.writeBytes a vs).read (a + k) = vs[k] := by
  induction vs generalizing m a k with
  | nil => simp at hk
  | cons v vs ih =>
    cases k with
    | zero => rw [writeBytes, read_writeBytes_other _ _ _ (by omega), Nat.add_zero, read_write_self h]; rfl
    | succ k =>
      simp only [List.length_cons, Nat.add_lt_add_iff_right] at hk
      have := ih (wf_write h a v) (a + 1) k hk
      rw [writeBytes, List.getElem_cons_succ, ← this]
      congr 1
      omega

@[simp] theorem getElem_bytes (m : Memory) (a n k : Nat) (hk : k < n) : (m.bytes a n)[k] = m.read (a + k) := by
  simp [bytes]

/-- What was written at `a` reads back as one vector. -/
theorem bytes_writeBytes {n : Nat} {m : Memory} (h : m.wf = true) (a : Nat) (v : Vector Byte n) :
    (m.writeBytes a v.toList).bytes a n = v := by
  ext k hk
  rw [getElem_bytes, read_writeBytes h a v.toList k (by simpa using hk)]
  simp

/-- Canonical memories that read alike at every address are the same list. -/
theorem eq_of_read_eq {m n : Memory} (hm : m.wf = true) (hn : n.wf = true) (h : ∀ a, m.read a = n.read a) : m = n := by
  unfold wf at hm hn
  generalize (none : Option Nat) = lo at hm hn
  induction m generalizing n lo with
  | nil =>
    cases n with
    | nil => rfl
    | cons c n =>
      obtain ⟨k, v⟩ := c
      have := h k
      simp only [read_nil, read_cons, if_true] at this
      exact absurd this.symm (wfFrom_cons.mp hn).2.1
  | cons c m ih =>
    obtain ⟨k, v⟩ := c
    have hc := wfFrom_cons.mp hm
    cases n with
    | nil =>
      have := h k
      simp only [read_nil, read_cons, if_true] at this
      exact absurd this hc.2.1
    | cons d n =>
      obtain ⟨j, w⟩ := d
      have hd := wfFrom_cons.mp hn
      have hkj : k = j := by
        rcases Nat.lt_trichotomy k j with hlt | he | hlt
        · have := h k
          simp only [read_cons, if_true, if_neg (Nat.ne_of_lt hlt), read_of_le hd.2.2 (Nat.le_of_lt hlt)] at this
          exact absurd this hc.2.1
        · exact he
        · have := h j
          simp only [read_cons, if_true, if_neg (Nat.ne_of_lt hlt), read_of_le hc.2.2 (Nat.le_of_lt hlt)] at this
          exact absurd this.symm hd.2.1
      subst hkj
      have hv : v = w := by simpa using h k
      subst hv
      refine congrArg _ (ih (fun a => ?_) (some k) hc.2.2 hd.2.2)
      by_cases ha : a = k
      · subst ha
        rw [read_of_le hc.2.2 (Nat.le_refl _), read_of_le hd.2.2 (Nat.le_refl _)]
      · simpa [ha] using h a

end Sys2Proof.Machine.Memory
end

