-- ==== Sys2Proof/Laws/State.lean ====
section
/-! SUPPORT. Laws/State.lean: one lemma per field per named update of State, so that no proof unfolds an update. -/

namespace Sys2Proof.Machine.State

@[simp] theorem withMat_ctxValid (s : State) (b : Block) : (s.withMat b).ctxValid = s.ctxValid := rfl
@[simp] theorem withMat_nk (s : State) (b : Block) : (s.withMat b).nk = s.nk := rfl
@[simp] theorem withMat_w (s : State) (b : Block) : (s.withMat b).w = s.w := rfl
@[simp] theorem withMat_cv (s : State) (b : Block) : (s.withMat b).cv = s.cv := rfl
@[simp] theorem withMat_mat (s : State) (b : Block) : (s.withMat b).mat = b := rfl
@[simp] theorem withMat_save (s : State) (b : Block) : (s.withMat b).save = s.save := rfl
@[simp] theorem withMat_phase (s : State) (b : Block) : (s.withMat b).phase = s.phase := rfl
@[simp] theorem withMat_cur (s : State) (b : Block) : (s.withMat b).cur = s.cur := rfl
@[simp] theorem withMat_seq (s : State) (b : Block) : (s.withMat b).seq = s.seq := rfl
@[simp] theorem withMat_status (s : State) (b : Block) : (s.withMat b).status = s.status := rfl
@[simp] theorem withMat_mem (s : State) (b : Block) : (s.withMat b).mem = s.mem := rfl
@[simp] theorem withMat_params (s : State) (b : Block) : (s.withMat b).params = s.params := rfl
@[simp] theorem withMat_inputs (s : State) (b : Block) : (s.withMat b).inputs = s.inputs := rfl
@[simp] theorem withMat_seen (s : State) (b : Block) : (s.withMat b).seen = s.seen := rfl
@[simp] theorem withMat_draws (s : State) (b : Block) : (s.withMat b).draws = s.draws := rfl

@[simp] theorem withSave_ctxValid (s : State) (b : Block) : (s.withSave b).ctxValid = s.ctxValid := rfl
@[simp] theorem withSave_nk (s : State) (b : Block) : (s.withSave b).nk = s.nk := rfl
@[simp] theorem withSave_w (s : State) (b : Block) : (s.withSave b).w = s.w := rfl
@[simp] theorem withSave_cv (s : State) (b : Block) : (s.withSave b).cv = s.cv := rfl
@[simp] theorem withSave_mat (s : State) (b : Block) : (s.withSave b).mat = s.mat := rfl
@[simp] theorem withSave_save (s : State) (b : Block) : (s.withSave b).save = b := rfl
@[simp] theorem withSave_phase (s : State) (b : Block) : (s.withSave b).phase = s.phase := rfl
@[simp] theorem withSave_cur (s : State) (b : Block) : (s.withSave b).cur = s.cur := rfl
@[simp] theorem withSave_seq (s : State) (b : Block) : (s.withSave b).seq = s.seq := rfl
@[simp] theorem withSave_status (s : State) (b : Block) : (s.withSave b).status = s.status := rfl
@[simp] theorem withSave_mem (s : State) (b : Block) : (s.withSave b).mem = s.mem := rfl
@[simp] theorem withSave_params (s : State) (b : Block) : (s.withSave b).params = s.params := rfl
@[simp] theorem withSave_inputs (s : State) (b : Block) : (s.withSave b).inputs = s.inputs := rfl
@[simp] theorem withSave_seen (s : State) (b : Block) : (s.withSave b).seen = s.seen := rfl
@[simp] theorem withSave_draws (s : State) (b : Block) : (s.withSave b).draws = s.draws := rfl

@[simp] theorem withCv_ctxValid (s : State) (b : Block) : (s.withCv b).ctxValid = s.ctxValid := rfl
@[simp] theorem withCv_nk (s : State) (b : Block) : (s.withCv b).nk = s.nk := rfl
@[simp] theorem withCv_w (s : State) (b : Block) : (s.withCv b).w = s.w := rfl
@[simp] theorem withCv_cv (s : State) (b : Block) : (s.withCv b).cv = b := rfl
@[simp] theorem withCv_mat (s : State) (b : Block) : (s.withCv b).mat = s.mat := rfl
@[simp] theorem withCv_save (s : State) (b : Block) : (s.withCv b).save = s.save := rfl
@[simp] theorem withCv_phase (s : State) (b : Block) : (s.withCv b).phase = s.phase := rfl
@[simp] theorem withCv_cur (s : State) (b : Block) : (s.withCv b).cur = s.cur := rfl
@[simp] theorem withCv_seq (s : State) (b : Block) : (s.withCv b).seq = s.seq := rfl
@[simp] theorem withCv_status (s : State) (b : Block) : (s.withCv b).status = s.status := rfl
@[simp] theorem withCv_mem (s : State) (b : Block) : (s.withCv b).mem = s.mem := rfl
@[simp] theorem withCv_params (s : State) (b : Block) : (s.withCv b).params = s.params := rfl
@[simp] theorem withCv_inputs (s : State) (b : Block) : (s.withCv b).inputs = s.inputs := rfl
@[simp] theorem withCv_seen (s : State) (b : Block) : (s.withCv b).seen = s.seen := rfl
@[simp] theorem withCv_draws (s : State) (b : Block) : (s.withCv b).draws = s.draws := rfl

@[simp] theorem withMem_ctxValid (s : State) (m : Memory) : (s.withMem m).ctxValid = s.ctxValid := rfl
@[simp] theorem withMem_nk (s : State) (m : Memory) : (s.withMem m).nk = s.nk := rfl
@[simp] theorem withMem_w (s : State) (m : Memory) : (s.withMem m).w = s.w := rfl
@[simp] theorem withMem_cv (s : State) (m : Memory) : (s.withMem m).cv = s.cv := rfl
@[simp] theorem withMem_mat (s : State) (m : Memory) : (s.withMem m).mat = s.mat := rfl
@[simp] theorem withMem_save (s : State) (m : Memory) : (s.withMem m).save = s.save := rfl
@[simp] theorem withMem_phase (s : State) (m : Memory) : (s.withMem m).phase = s.phase := rfl
@[simp] theorem withMem_cur (s : State) (m : Memory) : (s.withMem m).cur = s.cur := rfl
@[simp] theorem withMem_seq (s : State) (m : Memory) : (s.withMem m).seq = s.seq := rfl
@[simp] theorem withMem_status (s : State) (m : Memory) : (s.withMem m).status = s.status := rfl
@[simp] theorem withMem_mem (s : State) (m : Memory) : (s.withMem m).mem = m := rfl
@[simp] theorem withMem_params (s : State) (m : Memory) : (s.withMem m).params = s.params := rfl
@[simp] theorem withMem_inputs (s : State) (m : Memory) : (s.withMem m).inputs = s.inputs := rfl
@[simp] theorem withMem_seen (s : State) (m : Memory) : (s.withMem m).seen = s.seen := rfl
@[simp] theorem withMem_draws (s : State) (m : Memory) : (s.withMem m).draws = s.draws := rfl

@[simp] theorem withSeq_ctxValid (s : State) (p : SeqPos) : (s.withSeq p).ctxValid = s.ctxValid := rfl
@[simp] theorem withSeq_nk (s : State) (p : SeqPos) : (s.withSeq p).nk = s.nk := rfl
@[simp] theorem withSeq_w (s : State) (p : SeqPos) : (s.withSeq p).w = s.w := rfl
@[simp] theorem withSeq_cv (s : State) (p : SeqPos) : (s.withSeq p).cv = s.cv := rfl
@[simp] theorem withSeq_mat (s : State) (p : SeqPos) : (s.withSeq p).mat = s.mat := rfl
@[simp] theorem withSeq_save (s : State) (p : SeqPos) : (s.withSeq p).save = s.save := rfl
@[simp] theorem withSeq_phase (s : State) (p : SeqPos) : (s.withSeq p).phase = s.phase := rfl
@[simp] theorem withSeq_cur (s : State) (p : SeqPos) : (s.withSeq p).cur = s.cur := rfl
@[simp] theorem withSeq_seq (s : State) (p : SeqPos) : (s.withSeq p).seq = p := rfl
@[simp] theorem withSeq_status (s : State) (p : SeqPos) : (s.withSeq p).status = s.status := rfl
@[simp] theorem withSeq_mem (s : State) (p : SeqPos) : (s.withSeq p).mem = s.mem := rfl
@[simp] theorem withSeq_params (s : State) (p : SeqPos) : (s.withSeq p).params = s.params := rfl
@[simp] theorem withSeq_inputs (s : State) (p : SeqPos) : (s.withSeq p).inputs = s.inputs := rfl
@[simp] theorem withSeq_seen (s : State) (p : SeqPos) : (s.withSeq p).seen = s.seen := rfl
@[simp] theorem withSeq_draws (s : State) (p : SeqPos) : (s.withSeq p).draws = s.draws := rfl

@[simp] theorem withInputs_ctxValid (s : State) (l : List Input) : (s.withInputs l).ctxValid = s.ctxValid := rfl
@[simp] theorem withInputs_nk (s : State) (l : List Input) : (s.withInputs l).nk = s.nk := rfl
@[simp] theorem withInputs_w (s : State) (l : List Input) : (s.withInputs l).w = s.w := rfl
@[simp] theorem withInputs_cv (s : State) (l : List Input) : (s.withInputs l).cv = s.cv := rfl
@[simp] theorem withInputs_mat (s : State) (l : List Input) : (s.withInputs l).mat = s.mat := rfl
@[simp] theorem withInputs_save (s : State) (l : List Input) : (s.withInputs l).save = s.save := rfl
@[simp] theorem withInputs_phase (s : State) (l : List Input) : (s.withInputs l).phase = s.phase := rfl
@[simp] theorem withInputs_cur (s : State) (l : List Input) : (s.withInputs l).cur = s.cur := rfl
@[simp] theorem withInputs_seq (s : State) (l : List Input) : (s.withInputs l).seq = s.seq := rfl
@[simp] theorem withInputs_status (s : State) (l : List Input) : (s.withInputs l).status = s.status := rfl
@[simp] theorem withInputs_mem (s : State) (l : List Input) : (s.withInputs l).mem = s.mem := rfl
@[simp] theorem withInputs_params (s : State) (l : List Input) : (s.withInputs l).params = s.params := rfl
@[simp] theorem withInputs_inputs (s : State) (l : List Input) : (s.withInputs l).inputs = l := rfl
@[simp] theorem withInputs_seen (s : State) (l : List Input) : (s.withInputs l).seen = s.seen := rfl
@[simp] theorem withInputs_draws (s : State) (l : List Input) : (s.withInputs l).draws = s.draws := rfl

@[simp] theorem withSeen_ctxValid (s : State) (l : List Host.Cell) : (s.withSeen l).ctxValid = s.ctxValid := rfl
@[simp] theorem withSeen_nk (s : State) (l : List Host.Cell) : (s.withSeen l).nk = s.nk := rfl
@[simp] theorem withSeen_w (s : State) (l : List Host.Cell) : (s.withSeen l).w = s.w := rfl
@[simp] theorem withSeen_cv (s : State) (l : List Host.Cell) : (s.withSeen l).cv = s.cv := rfl
@[simp] theorem withSeen_mat (s : State) (l : List Host.Cell) : (s.withSeen l).mat = s.mat := rfl
@[simp] theorem withSeen_save (s : State) (l : List Host.Cell) : (s.withSeen l).save = s.save := rfl
@[simp] theorem withSeen_phase (s : State) (l : List Host.Cell) : (s.withSeen l).phase = s.phase := rfl
@[simp] theorem withSeen_cur (s : State) (l : List Host.Cell) : (s.withSeen l).cur = s.cur := rfl
@[simp] theorem withSeen_seq (s : State) (l : List Host.Cell) : (s.withSeen l).seq = s.seq := rfl
@[simp] theorem withSeen_status (s : State) (l : List Host.Cell) : (s.withSeen l).status = s.status := rfl
@[simp] theorem withSeen_mem (s : State) (l : List Host.Cell) : (s.withSeen l).mem = s.mem := rfl
@[simp] theorem withSeen_params (s : State) (l : List Host.Cell) : (s.withSeen l).params = s.params := rfl
@[simp] theorem withSeen_inputs (s : State) (l : List Host.Cell) : (s.withSeen l).inputs = s.inputs := rfl
@[simp] theorem withSeen_seen (s : State) (l : List Host.Cell) : (s.withSeen l).seen = l := rfl
@[simp] theorem withSeen_draws (s : State) (l : List Host.Cell) : (s.withSeen l).draws = s.draws := rfl

@[simp] theorem issued_ctxValid (s : State) (d : Descriptor) : (s.issued d).ctxValid = s.ctxValid := rfl
@[simp] theorem issued_nk (s : State) (d : Descriptor) : (s.issued d).nk = s.nk := rfl
@[simp] theorem issued_w (s : State) (d : Descriptor) : (s.issued d).w = s.w := rfl
@[simp] theorem issued_cv (s : State) (d : Descriptor) : (s.issued d).cv = s.cv := rfl
@[simp] theorem issued_mat (s : State) (d : Descriptor) : (s.issued d).mat = s.mat := rfl
@[simp] theorem issued_save (s : State) (d : Descriptor) : (s.issued d).save = s.save := rfl
@[simp] theorem issued_phase (s : State) (d : Descriptor) : (s.issued d).phase = .busy := rfl
@[simp] theorem issued_cur (s : State) (d : Descriptor) : (s.issued d).cur = d := rfl
@[simp] theorem issued_seq (s : State) (d : Descriptor) : (s.issued d).seq = ⟨0, 0⟩ := rfl
@[simp] theorem issued_status (s : State) (d : Descriptor) : (s.issued d).status = s.status := rfl
@[simp] theorem issued_mem (s : State) (d : Descriptor) : (s.issued d).mem = s.mem := rfl
@[simp] theorem issued_params (s : State) (d : Descriptor) : (s.issued d).params = s.params := rfl
@[simp] theorem issued_inputs (s : State) (d : Descriptor) : (s.issued d).inputs = s.inputs := rfl
@[simp] theorem issued_seen (s : State) (d : Descriptor) : (s.issued d).seen = s.seen := rfl
@[simp] theorem issued_draws (s : State) (d : Descriptor) : (s.issued d).draws = s.draws := rfl

@[simp] theorem complete_ctxValid (s : State) : s.complete.ctxValid = s.ctxValid := rfl
@[simp] theorem complete_nk (s : State) : s.complete.nk = s.nk := rfl
@[simp] theorem complete_w (s : State) : s.complete.w = s.w := rfl
@[simp] theorem complete_cv (s : State) : s.complete.cv = s.cv := rfl
@[simp] theorem complete_mat (s : State) : s.complete.mat = s.mat := rfl
@[simp] theorem complete_save (s : State) : s.complete.save = s.save := rfl
@[simp] theorem complete_phase (s : State) : s.complete.phase = .idle := rfl
@[simp] theorem complete_cur (s : State) : s.complete.cur = s.cur := rfl
@[simp] theorem complete_seq (s : State) : s.complete.seq = s.seq := rfl
@[simp] theorem complete_status (s : State) : s.complete.status = statusByte .ok := rfl
@[simp] theorem complete_mem (s : State) : s.complete.mem = s.mem := rfl
@[simp] theorem complete_params (s : State) : s.complete.params = s.params := rfl
@[simp] theorem complete_inputs (s : State) : s.complete.inputs = s.inputs := rfl
@[simp] theorem complete_seen (s : State) : s.complete.seen = s.seen := rfl
@[simp] theorem complete_draws (s : State) : s.complete.draws = s.draws := rfl

@[simp] theorem retireMat_ctxValid (s : State) : s.retireMat.ctxValid = s.ctxValid := rfl
@[simp] theorem retireMat_nk (s : State) : s.retireMat.nk = s.nk := rfl
@[simp] theorem retireMat_w (s : State) : s.retireMat.w = s.w := rfl
@[simp] theorem retireMat_cv (s : State) : s.retireMat.cv = s.cv := rfl
@[simp] theorem retireMat_mat (s : State) : s.retireMat.mat = freeBlock s.draws := rfl
@[simp] theorem retireMat_save (s : State) : s.retireMat.save = s.save := rfl
@[simp] theorem retireMat_phase (s : State) : s.retireMat.phase = s.phase := rfl
@[simp] theorem retireMat_cur (s : State) : s.retireMat.cur = s.cur := rfl
@[simp] theorem retireMat_seq (s : State) : s.retireMat.seq = s.seq := rfl
@[simp] theorem retireMat_status (s : State) : s.retireMat.status = s.status := rfl
@[simp] theorem retireMat_mem (s : State) : s.retireMat.mem = s.mem := rfl
@[simp] theorem retireMat_params (s : State) : s.retireMat.params = s.params := rfl
@[simp] theorem retireMat_inputs (s : State) : s.retireMat.inputs = s.inputs := rfl
@[simp] theorem retireMat_seen (s : State) : s.retireMat.seen = s.seen := rfl
@[simp] theorem retireMat_draws (s : State) : s.retireMat.draws = s.draws + 16 := rfl

@[simp] theorem loadContext_ctxValid (s : State) (k : KeySize) (x : Schedule) (iv : Block) : (s.loadContext k x iv).ctxValid = true := rfl
@[simp] theorem loadContext_nk (s : State) (k : KeySize) (x : Schedule) (iv : Block) : (s.loadContext k x iv).nk = k := rfl
@[simp] theorem loadContext_w (s : State) (k : KeySize) (x : Schedule) (iv : Block) : (s.loadContext k x iv).w = x := rfl
@[simp] theorem loadContext_cv (s : State) (k : KeySize) (x : Schedule) (iv : Block) : (s.loadContext k x iv).cv = iv := rfl
@[simp] theorem loadContext_mat (s : State) (k : KeySize) (x : Schedule) (iv : Block) : (s.loadContext k x iv).mat = s.mat := rfl
@[simp] theorem loadContext_save (s : State) (k : KeySize) (x : Schedule) (iv : Block) : (s.loadContext k x iv).save = s.save := rfl
@[simp] theorem loadContext_phase (s : State) (k : KeySize) (x : Schedule) (iv : Block) : (s.loadContext k x iv).phase = s.phase := rfl
@[simp] theorem loadContext_cur (s : State) (k : KeySize) (x : Schedule) (iv : Block) : (s.loadContext k x iv).cur = s.cur := rfl
@[simp] theorem loadContext_seq (s : State) (k : KeySize) (x : Schedule) (iv : Block) : (s.loadContext k x iv).seq = s.seq := rfl
@[simp] theorem loadContext_status (s : State) (k : KeySize) (x : Schedule) (iv : Block) : (s.loadContext k x iv).status = s.status := rfl
@[simp] theorem loadContext_mem (s : State) (k : KeySize) (x : Schedule) (iv : Block) : (s.loadContext k x iv).mem = s.mem := rfl
@[simp] theorem loadContext_params (s : State) (k : KeySize) (x : Schedule) (iv : Block) : (s.loadContext k x iv).params = s.params := rfl
@[simp] theorem loadContext_inputs (s : State) (k : KeySize) (x : Schedule) (iv : Block) : (s.loadContext k x iv).inputs = s.inputs := rfl
@[simp] theorem loadContext_seen (s : State) (k : KeySize) (x : Schedule) (iv : Block) : (s.loadContext k x iv).seen = s.seen := rfl
@[simp] theorem loadContext_draws (s : State) (k : KeySize) (x : Schedule) (iv : Block) : (s.loadContext k x iv).draws = s.draws + 240 := rfl

@[simp] theorem raiseError_ctxValid (s : State) (c : StatusCode) : (s.raiseError c).ctxValid = false := rfl
@[simp] theorem raiseError_nk (s : State) (c : StatusCode) : (s.raiseError c).nk = Config.freeKeySize s.draws := rfl
@[simp] theorem raiseError_w (s : State) (c : StatusCode) : (s.raiseError c).w = freeSchedule s.draws := rfl
@[simp] theorem raiseError_cv (s : State) (c : StatusCode) : (s.raiseError c).cv = freeBlock (s.draws + 240) := rfl
@[simp] theorem raiseError_mat (s : State) (c : StatusCode) : (s.raiseError c).mat = freeBlock (s.draws + 256) := rfl
@[simp] theorem raiseError_save (s : State) (c : StatusCode) : (s.raiseError c).save = freeBlock (s.draws + 272) := rfl
@[simp] theorem raiseError_phase (s : State) (c : StatusCode) : (s.raiseError c).phase = .idle := rfl
@[simp] theorem raiseError_cur (s : State) (c : StatusCode) : (s.raiseError c).cur = s.cur := rfl
@[simp] theorem raiseError_seq (s : State) (c : StatusCode) : (s.raiseError c).seq = s.seq := rfl
@[simp] theorem raiseError_status (s : State) (c : StatusCode) : (s.raiseError c).status = statusByte c := rfl
@[simp] theorem raiseError_mem (s : State) (c : StatusCode) : (s.raiseError c).mem = s.mem := rfl
@[simp] theorem raiseError_params (s : State) (c : StatusCode) : (s.raiseError c).params = s.params := rfl
@[simp] theorem raiseError_inputs (s : State) (c : StatusCode) : (s.raiseError c).inputs = s.inputs := rfl
@[simp] theorem raiseError_seen (s : State) (c : StatusCode) : (s.raiseError c).seen = s.seen := rfl
@[simp] theorem raiseError_draws (s : State) (c : StatusCode) : (s.raiseError c).draws = s.draws + 288 := rfl

@[simp] theorem restarted_ctxValid (s : State) (m : Memory) : (s.restarted m).ctxValid = false := rfl
@[simp] theorem restarted_nk (s : State) (m : Memory) : (s.restarted m).nk = .nk8 := rfl
@[simp] theorem restarted_w (s : State) (m : Memory) : (s.restarted m).w = State.reset.w := rfl
@[simp] theorem restarted_cv (s : State) (m : Memory) : (s.restarted m).cv = Block.zero := rfl
@[simp] theorem restarted_mat (s : State) (m : Memory) : (s.restarted m).mat = Block.zero := rfl
@[simp] theorem restarted_save (s : State) (m : Memory) : (s.restarted m).save = Block.zero := rfl
@[simp] theorem restarted_phase (s : State) (m : Memory) : (s.restarted m).phase = .idle := rfl
@[simp] theorem restarted_cur (s : State) (m : Memory) : (s.restarted m).cur = ⟨0, 0, 0⟩ := rfl
@[simp] theorem restarted_seq (s : State) (m : Memory) : (s.restarted m).seq = ⟨0, 0⟩ := rfl
@[simp] theorem restarted_status (s : State) (m : Memory) : (s.restarted m).status = 0 := rfl
@[simp] theorem restarted_mem (s : State) (m : Memory) : (s.restarted m).mem = m := rfl
@[simp] theorem restarted_params (s : State) (m : Memory) : (s.restarted m).params = s.params := rfl
@[simp] theorem restarted_inputs (s : State) (m : Memory) : (s.restarted m).inputs = s.inputs := rfl
@[simp] theorem restarted_seen (s : State) (m : Memory) : (s.restarted m).seen = s.seen := rfl
@[simp] theorem restarted_draws (s : State) (m : Memory) : (s.restarted m).draws = s.draws := rfl

end Sys2Proof.Machine.State
end

