-- ==== Sys2Proof/Laws/Ops.lean ====
section
/-! SUPPORT. Laws/Ops.lean: one lemma per shared operation that says everything it can do. -/

namespace Sys2Proof

/-- 20_memory.md R52: the first refused address, if there is one. -/
theorem Params.refusedAt_eq_some {p : Params} {a n x : Nat} :
    p.refusedAt a n = some x ↔
      a ≤ x ∧ x < a + n ∧ p.admits x = false ∧ ∀ y, a ≤ y → y < x → p.admits y = true := by
  induction n generalizing a with
  | zero => simp only [refusedAt]; constructor
            · intro h; cases h
            · intro h; omega
  | succ n ih =>
    by_cases ha : p.admits a = true
    · simp only [refusedAt, ha, if_true, ih]
      constructor
      · rintro ⟨h1, h2, h3, h4⟩
        refine ⟨by omega, by omega, h3, fun y hy hx => ?_⟩
        rcases Nat.eq_or_lt_of_le hy with rfl | hlt
        · exact ha
        · exact h4 y hlt hx
      · rintro ⟨h1, h2, h3, h4⟩
        have : x ≠ a := fun he => by subst he; simp [ha] at h3
        exact ⟨by omega, by omega, h3, fun y hy hx => h4 y (by omega) hx⟩
    · have ha' : p.admits a = false := by simpa using ha
      simp only [refusedAt, ha', Bool.false_eq_true, if_false, Option.some.injEq]
      constructor
      · rintro rfl
        exact ⟨Nat.le_refl _, by omega, ha', fun y hy hx => by omega⟩
      · rintro ⟨h1, _, _, h4⟩
        rcases Nat.eq_or_lt_of_le h1 with he | hlt
        · exact he
        · simp [h4 a (Nat.le_refl _) hlt] at ha'

/-- No address is refused exactly when every one is admitted. -/
theorem Params.refusedAt_eq_none {p : Params} {a n : Nat} :
    p.refusedAt a n = none ↔ ∀ x, a ≤ x → x < a + n → p.admits x = true := by
  induction n generalizing a with
  | zero => simp only [refusedAt, true_iff]; intro x h1 h2; omega
  | succ n ih =>
    by_cases ha : p.admits a = true
    · simp only [refusedAt, ha, if_true, ih]
      constructor
      · intro h x h1 h2
        rcases Nat.eq_or_lt_of_le h1 with rfl | hlt
        · exact ha
        · exact h x hlt (by omega)
      · intro h x h1 h2
        exact h x (by omega) (by omega)
    · simp only [refusedAt, ha, Bool.false_eq_true, if_false]
      exact ⟨fun h => (by cases h), fun h => absurd (h a (Nat.le_refl _) (by omega)) ha⟩

theorem Region.has_iff {g : Region} {x : Nat} : g.has x = true ↔ g.base ≤ x ∧ x < g.base + g.size := by
  simp [Region.has]

theorem Params.inRange_iff {p : Params} {g : Region} :
    p.inRange g = true ↔ g.size = 0 ∨ g.base + g.size ≤ 2 ^ p.addrWidth := by
  simp [Params.inRange]

theorem Params.admits_iff {p : Params} {a : Nat} :
    p.admits a = true ↔ a < 2 ^ p.addrWidth ∧ ∀ g ∈ p.holes, g.has a = false := by
  simp [Params.admits]

namespace Machine

@[simp] theorem andThen_next (s : State) (f : State → Result) : andThen (.next s) f = f s := rfl
@[simp] theorem andThen_fault (e : Fault) (f : State → Result) : andThen (.fault e) f = .fault e := rfl
@[simp] theorem andThen_refused (e : Refusal) (f : State → Result) : andThen (.refused e) f = .refused e := rfl

/-- Two moves in a row answer a next state exactly when both do. -/
theorem andThen_eq_next {r : Result} {f : State → Result} {t : State} :
    andThen r f = .next t ↔ ∃ s, r = .next s ∧ f s = .next t := by
  cases r <;> simp [andThen]

theorem andThen_assoc (r : Result) (f g : State → Result) :
    andThen (andThen r f) g = andThen r fun s => andThen (f s) g := by
  cases r <;> rfl

/-- A read that goes on gives the bytes; every address was admitted. -/
theorem readThen_eq_next {n a : Nat} {s t : State} {f : Vector Byte n → Result} :
    readThen n a s f = .next t ↔ s.params.refusedAt a n = none ∧ f (s.mem.bytes a n) = .next t := by
  unfold readThen
  cases s.params.refusedAt a n <;> simp

/-- A write that goes on changes the written bytes of memory and nothing else. -/
theorem writeAt_eq_next {n a : Nat} {v : Vector Byte n} {s t : State} :
    writeAt v a s = .next t ↔
      s.params.refusedAt a n = none ∧ t = s.withMem (s.mem.writeBytes a v.toList) := by
  unfold writeAt
  cases s.params.refusedAt a n <;> simp [eq_comm]

theorem readThen_of_refused {n a x : Nat} {s : State} {f : Vector Byte n → Result}
    (h : s.params.refusedAt a n = some x) : readThen n a s f = .fault (.notAdmitted x) := by
  simp [readThen, h]

theorem readThen_of_answered {n a : Nat} {s : State} {f : Vector Byte n → Result}
    (h : s.params.refusedAt a n = none) : readThen n a s f = f (s.mem.bytes a n) := by
  simp [readThen, h]

theorem writeAt_of_answered {n a : Nat} {v : Vector Byte n} {s : State} (h : s.params.refusedAt a n = none) :
    writeAt v a s = .next (s.withMem (s.mem.writeBytes a v.toList)) := by
  simp [writeAt, h]

/-- The checks of ENC and DEC pass exactly when the context is valid, the length is whole blocks and the buffer is in
range (60_exceptions.md R227). -/
theorem bufferError_eq_none {s : State} {a len : Word32} :
    bufferError s a len = none ↔
      s.ctxValid = true ∧ len.toNat % 16 = 0 ∧ s.params.inRange (bufRegion a len) = true := by
  unfold bufferError
  split
  · next h => simp [h]
  · next h =>
    split
    · next h2 => simp [h2]
    · next h2 => split <;> simp_all

/-- The checks read the context flag and the parameters only. -/
theorem bufferError_congr {s t : State} (h1 : s.ctxValid = t.ctxValid) (h2 : s.params = t.params) (a len : Word32) :
    bufferError s a len = bufferError t a len := by
  simp [bufferError, h1, h2]

/-- What every block step keeps, the loop keeps (one induction for every invariant of ENC and DEC). -/
theorem eachBlock_keeps {P : State → Prop} {f : Nat → State → Result} {a : Word32}
    (hseq : ∀ s p, P s → P (s.withSeq p)) (hf : ∀ x s t, f x s = .next t → P s → P t) :
    ∀ n j s t, eachBlock f a n j s = .next t → P s → P t := by
  intro n
  induction n with
  | zero =>
    intro j s t h hp
    cases h
    exact hp
  | succ n ih =>
    intro j s t h hp
    obtain ⟨u, hu, ht⟩ := andThen_eq_next.mp h
    exact ih (j + 1) _ t ht (hseq _ _ (hf _ s u hu hp))

/-- The loop over `m + n` blocks is the loop over `m`, then over `n`. -/
theorem eachBlock_add (f : Nat → State → Result) (a : Word32) (m n j : Nat) (s : State) :
    eachBlock f a (m + n) j s = andThen (eachBlock f a m j s) (eachBlock f a n (j + m)) := by
  induction m generalizing j s with
  | zero => simp [eachBlock]
  | succ m ih =>
    rw [Nat.succ_add]
    simp only [eachBlock, andThen_assoc, ih, Nat.add_assoc, Nat.add_comm 1 m]

/-- Every byte of an error entry's memory, its parameters and inputs stay (60_exceptions.md R224, R228). -/
theorem raiseError_outside (s : State) (c : StatusCode) :
    (s.raiseError c).mem = s.mem ∧ (s.raiseError c).params = s.params ∧ (s.raiseError c).inputs = s.inputs :=
  ⟨rfl, rfl, rfl⟩

/-- The addresses of a clipped region are those of the region inside the address space. -/
theorem clip_has_iff {p : Params} {g : Region} {x : Nat} :
    (p.clip g).has x = true ↔ g.has x = true ∧ x < 2 ^ p.addrWidth := by
  simp only [Region.has_iff, Params.clip]
  omega

/-- What a reset leaves, whatever it interrupts: every register as after reset. -/
theorem resetNow_registers (s : State) :
    ∃ m n, s.resetNow =
      { State.reset with mem := m, params := s.params, inputs := s.inputs, seen := s.seen, draws := n } := by
  unfold State.resetNow
  split
  · exact ⟨_, _, rfl⟩
  · exact ⟨_, _, rfl⟩

/-- What a step can do: one case per kind of turn. -/
theorem step_cases (s : State) :
    (s.phase = .idle ∧ step s = idleTurn s) ∨ (s.phase = .busy ∧ step s = busyTurn s) := by
  unfold step takeTurn
  cases h : s.phase
  · exact .inl ⟨rfl, rfl⟩
  · exact .inr ⟨rfl, rfl⟩

/-- The guarded addresses of an INIT with a legal key size: its key and its IV (70_reset_and_hazards.md R260). -/
theorem inBusyRegion_init {s : State} {ksz : BitVec 2} {nk : KeySize} {a b : Word32} {x : Nat}
    (h : decodeCommand s.cur = .instr (.init ksz a b)) (hk : keySizeOf ksz = some nk) :
    inBusyRegion s x = ((keyRegion nk a).has x || (ivRegion b).has x) := by
  simp [inBusyRegion, busyRegions, h, hk]

/-- The guarded addresses of an INIT without a key size: its IV. -/
theorem inBusyRegion_init_invalid {s : State} {ksz : BitVec 2} {a b : Word32} {x : Nat}
    (h : decodeCommand s.cur = .instr (.init ksz a b)) (hk : keySizeOf ksz = none) :
    inBusyRegion s x = (ivRegion b).has x := by
  simp [inBusyRegion, busyRegions, h, hk]

/-- The guarded addresses of an ENC or DEC: its buffer. -/
theorem inBusyRegion_buffer {s : State} {a len : Word32} {x : Nat}
    (h : decodeCommand s.cur = .instr (.enc a len) ∨ decodeCommand s.cur = .instr (.dec a len)) :
    inBusyRegion s x = (bufRegion a len).has x := by
  rcases h with h | h <;> simp [inBusyRegion, busyRegions, h]

/-- When the host may touch an address (70_reset_and_hazards.md R253). -/
theorem mayTouch_iff {s : State} {a : Nat} :
    s.mayTouch a = true ↔ s.params.admits a = true ∧ (s.phase = .busy → inBusyRegion s a = false) := by
  cases h : s.phase <;> simp [State.mayTouch, h]

/-- What the host reads is the byte, where it may touch the address. -/
theorem hostRead_eq_some {s : State} {a : Nat} {v : Byte} :
    s.hostRead a = some v ↔ s.mayTouch a = true ∧ v = s.mem.read a := by
  unfold State.hostRead
  split
  · next h => simp [h, eq_comm]
  · next h => simp [h]

/-- Every cell of an observation is one that the host reads. -/
theorem mem_observe_dmem {s : State} {c : Host.Cell} :
    c ∈ s.observe.dmem ↔ c ∈ s.mem ∧ s.mayTouch c.1 = true := by
  simp [State.observe]

/-- A host read that takes place records the byte and changes nothing else. -/
theorem hostLoad_eq_next {a : Word32} {s t : State} :
    hostLoad a s = .next t ↔
      s.params.admits a.toNat = true ∧ t = s.withSeen ((a.toNat, s.mem.read a.toNat) :: s.seen) := by
  rw [hostLoad, readThen_eq_next]
  by_cases h : s.params.admits a.toNat = true <;> simp [Params.refusedAt, h, Memory.bytes, eq_comm]

/-- A turn while BUSY is a reset, a host access outside the command's regions, or a move of the core. -/
theorem busyTurn_cases (s : State) :
    (∃ rest, s.inputs = .reset :: rest ∧ busyTurn s = .next (s.withInputs rest).resetNow) ∨
    (∃ a v rest, s.inputs = .store a v :: rest ∧ inBusyRegion s a.toNat = false ∧
      busyTurn s = hostStore a v (s.withInputs rest)) ∨
    (∃ a rest, s.inputs = .load a :: rest ∧ inBusyRegion s a.toNat = false ∧
      busyTurn s = hostLoad a (s.withInputs rest)) ∨
    (∃ rest, s.inputs = .wait :: rest ∧ busyTurn s = coreMove (s.withInputs rest)) ∨
    busyTurn s = coreMove s := by
  unfold busyTurn
  split
  · next rest h => exact .inl ⟨rest, h, rfl⟩
  · next a v rest h =>
    cases hb : inBusyRegion s a.toNat
    · exact .inr (.inl ⟨a, v, rest, h, hb, by simp⟩)
    · exact .inr (.inr (.inr (.inr (by simp))))
  · next a rest h =>
    cases hb : inBusyRegion s a.toNat
    · exact .inr (.inr (.inl ⟨a, rest, h, hb, by simp⟩))
    · exact .inr (.inr (.inr (.inr (by simp))))
  · next rest h => exact .inr (.inr (.inr (.inl ⟨rest, h, rfl⟩)))
  · exact .inr (.inr (.inr (.inr rfl)))

end Machine

end Sys2Proof
end

