-- ==== Sys2Proof/Laws/PerInstr.lean ====
section
/-! SUPPORT. Laws/PerInstr.lean: statements about every instruction, one lemma per constructor. Family TableRow: the code of
an instruction matches its row of spec/opcode_table.json (30_encoding.md R77, R81). -/

namespace Sys2Proof.Laws.TableRow

/-- The mask and match of the instruction's row. -/
def maskMatch : Instr → Nat × Nat
  | .init _ _ _ => (0xffffffcf, 0x00000001)
  | .enc _ _ => (0xffffffff, 0x00000002)
  | .dec _ _ => (0xffffffff, 0x00000003)
  | .ark _ => (0xf0, 0x00)
  | .sb => (0xff, 0x10)
  | .sr => (0xff, 0x20)
  | .mc => (0xff, 0x30)
  | .isb => (0xff, 0x40)
  | .isr => (0xff, 0x50)
  | .imc => (0xff, 0x60)

/-- The number that the table matches: the CMD word, or the micro-op byte. -/
def tableNumber : Code → Nat
  | .command d => d.cmd.toNat
  | .microOp u => u.toNat

/-- Under the row's mask, the code is the row's match. -/
def Statement (i : Instr) : Prop := tableNumber (encode i) &&& (maskMatch i).1 = (maskMatch i).2

theorem init (ksz : BitVec 2) (a b : Word32) : Statement (.init ksz a b) := by
  show (cmdWord ksz 1).toNat &&& 0xffffffcf = 0x00000001
  revert ksz
  decide

theorem enc (a len : Word32) : Statement (.enc a len) := by
  show (cmdWord 0 2).toNat &&& 0xffffffff = 0x00000002
  decide

theorem dec (a len : Word32) : Statement (.dec a len) := by
  show (cmdWord 0 3).toNat &&& 0xffffffff = 0x00000003
  decide

theorem ark (r : BitVec 4) : Statement (.ark r) := by
  show (uopByte 0 r).toNat &&& 0xf0 = 0x00
  revert r
  decide

theorem sb : Statement .sb := by unfold Statement; decide
theorem sr : Statement .sr := by unfold Statement; decide
theorem mc : Statement .mc := by unfold Statement; decide
theorem isb : Statement .isb := by unfold Statement; decide
theorem isr : Statement .isr := by unfold Statement; decide
theorem imc : Statement .imc := by unfold Statement; decide

end Sys2Proof.Laws.TableRow
end

