-- ==== Sys2Proof/Tests/Slice0.lean ====
section
/-! SUPPORT. Tests/Slice0.lean: the model's own tests. Expected values come from spec/95_test_vectors.md (TV-…, P5) or from a
rule that the comment names. The witnesses at the end show, for each obligation with hypotheses, inputs that meet them. -/

namespace Sys2Proof.Tests

open Sys2Proof Sys2Proof.Machine

set_option maxRecDepth 20000

set_option Elab.async false

/-! WellFormed refuses what R82 calls ill-formed, and the decoders reject by name. -/

theorem test_wf_refuses_ark_15 : (Instr.ark 15).wellFormed = false := by decide
theorem test_wf_admits_ark_14 : (Instr.ark 14).wellFormed = true := by decide
theorem test_wf_admits_invalid_key_size : (Instr.init 3 0 0).wellFormed = true := by decide

theorem test_rejections_by_name :
    decodeMicroOp 0x0f = .rejected .roundKeyFifteen ∧ decodeMicroOp 0x70 = .rejected .reservedClass ∧
    decodeMicroOp 0x61 = .rejected .roundBits ∧
    decodeCommand ⟨0x00000042, 0, 0⟩ = .rejected .reservedBits ∧
    decodeCommand ⟨0x80000002, 0, 0⟩ = .rejected .reservedBits ∧
    decodeCommand ⟨0x00000013, 0, 0⟩ = .rejected .keySizeBits ∧
    decodeCommand ⟨0x00000000, 0, 0⟩ = .rejected .reservedOp ∧
    decodeCommand ⟨0x0000000f, 0, 0⟩ = .rejected .reservedOp := by decide

/-! Every constructor's decoding from a word written out by R71 (RSV, KSZ, OP) or R81 (CLS, RND). -/

theorem test_decode_init : decodeCommand ⟨0b00000000000000000000000000_01_0001, 0xffffffe0, 7⟩ =
    .instr (.init 1 0xffffffe0 7) := by decide
theorem test_decode_enc : decodeCommand ⟨0b00000000000000000000000000_00_0010, 0x2001, 0xfffffff0⟩ =
    .instr (.enc 0x2001 0xfffffff0) := by decide
theorem test_decode_dec : decodeCommand ⟨0b00000000000000000000000000_00_0011, 0x80000000, 5⟩ =
    .instr (.dec 0x80000000 5) := by decide
theorem test_decode_ark : decodeMicroOp 0b0000_1110 = .instr (.ark 14) := by decide
theorem test_decode_sb : decodeMicroOp 0b0001_0000 = .instr .sb := by decide
theorem test_decode_sr : decodeMicroOp 0b0010_0000 = .instr .sr := by decide
theorem test_decode_mc : decodeMicroOp 0b0011_0000 = .instr .mc := by decide
theorem test_decode_isb : decodeMicroOp 0b0100_0000 = .instr .isb := by decide
theorem test_decode_isr : decodeMicroOp 0b0101_0000 = .instr .isr := by decide
theorem test_decode_imc : decodeMicroOp 0b0110_0000 = .instr .imc := by decide

/-- R70: CMD is the first word, A the second, B the third. -/
theorem test_table_word_order :
    decodeTableWord 96 (0x21 + 0x1000 * 2 ^ 32 + 0x1020 * 2 ^ 64) = some (.init 2 0x1000 0x1020) := by decide

/-! States for the tests. -/

/-- Memory with `n` bytes, written as a number, at `a`. -/
def put (m : Memory) (a n x : Nat) : Memory := m.writeBytes a (hexBytes n x).toList

/-- The key of TV-S1. -/
def keyS1 : Nat := 0x000102030405060708090a0b0c0d0e0f101112131415161718191a1b1c1d1e1f

/-- The start of P1 (and of TV-E): the key at 0x1000, a zero IV at 0x1020, a plaintext block at 0x2000. -/
def p1Start : State :=
  { State.reset with mem := put (put [] 0x1000 32 keyS1) 0x2000 16 0x00112233445566778899aabbccddeeff }

/-- The round keys of TV-S1. -/
def wS1 : Schedule := keyExpansion .nk8 (hexBytes 32 keyS1) State.reset.w

/-- P1 after its INIT, as TV-S1 gives the context. -/
def p1Ready : State := { p1Start with ctxValid := true, nk := .nk8, w := wS1 }

/-- A state whose S is the block. -/
def withS (x : Nat) : State := { p1Ready with mat := hexBlock x }

/-- A busy core in the middle of a block of P1's ENC. -/
def midBlock : State := { p1Ready with phase := .busy, cur := ⟨0x02, 0x2000, 0x10⟩, seq := ⟨0, 5⟩ }

/-- S after an instruction. -/
def matAfter (i : Instr) (s : State) : Option Block := (nextOf (exec i s)).map (·.mat)

/-- STATUS and CTX_VALID after a command. -/
def codeAfter (s : State) (d : Descriptor) : Option (Byte × Bool) :=
  (nextOf (step { s with inputs := [.issue d] })).map fun t => (t.status, t.ctxValid)

/-! The parts: TV-GF, TV-W, TV-K. -/

theorem test_gmul : gmul 0x57 0x13 = 0xfe ∧ gmul 0x57 0x83 = 0xc1 ∧ gmul 0x8d 0x0e = 0x07 := by decide

theorem test_rot_sub_word :
    subWord (rotWord (hexBytes 4 0x1c1d1e1f)) = hexBytes 4 0xa472c09c ∧
    subWord (hexBytes 4 0x01020304) = hexBytes 4 0x7c777bf2 := by decide +kernel

theorem test_schedule_256 :
    wordAt wS1 8 = hexBytes 4 0xa573c29f ∧ wordAt wS1 12 = hexBytes 4 0x1651a8cd ∧
    roundKey wS1 14 = hexBlock 0x24fc79ccbf0979e9371ac23c6d68de36 := by decide +kernel

theorem test_schedule_192 :
    roundKey (keyExpansion .nk6 (hexBytes 24 0x000102030405060708090a0b0c0d0e0f1011121314151617) State.reset.w) 12 =
      hexBlock 0xa4970a331a78dc09c418c271e3a41d5d := by decide +kernel

theorem test_schedule_128 :
    roundKey (keyExpansion .nk4 (hexBytes 16 0x000102030405060708090a0b0c0d0e0f) State.reset.w) 10 =
      hexBlock 0x13111d7fe3944a17f307a78b4d2b30c5 := by decide +kernel

/-! One instruction each: TV-T, TV-R1, TV-R2. -/

theorem test_sb : matAfter .sb (withS 0x4f63760643e0aa85efa7213201a4e705) =
    some (hexBlock 0x84fb386f1ae1ac97df5cfd237c49946b) := by decide +kernel
theorem test_sr : matAfter .sr (withS 0x84fb386f1ae1ac97df5cfd237c49946b) =
    some (hexBlock 0x84e1fd6b1a5c946fdf4938977cfbac23) := by decide +kernel
theorem test_mc : matAfter .mc (withS 0x84e1fd6b1a5c946fdf4938977cfbac23) =
    some (hexBlock 0xbd2a395d2b6ac438d192443e615da195) := by decide +kernel
theorem test_ark : matAfter (.ark 2) (withS 0xbd2a395d2b6ac438d192443e615da195) =
    some (hexBlock 0x1859fbc28a1c00a078ed8aadc42f6109) := by decide +kernel
theorem test_isr : matAfter .isr (withS 0xaa5ece06ee6e3c56dde68bac2621bebf) =
    some (hexBlock 0xaa218b56ee5ebeacdd6ecebf26e63c06) := by decide +kernel
theorem test_isb : matAfter .isb (withS 0xaa218b56ee5ebeacdd6ecebf26e63c06) =
    some (hexBlock 0x627bceb9999d5aaac945ecf423f56da5) := by decide +kernel
theorem test_imc : matAfter .imc (withS 0x8e4da1bc9fdc589d01010101c6c6c6c6) =
    some (hexBlock 0xdb135345f20a225c01010101c6c6c6c6) := by decide +kernel

/-- R82: with NR = 12, `ARK 13` is ill-formed. -/
theorem test_ark_above_nr : nextOf (runMicroOp 0x0d { p1Ready with nk := .nk6 }) = none := by decide +kernel

/-- P1, command 1. -/
theorem test_init :
    ((nextOf (exec (.init 2 0x1000 0x1020) p1Start)).map fun t => (t.status, t.ctxValid, t.nk, roundKey t.w 2, t.cv)) =
      some (0x00, true, .nk8, hexBlock 0xa573c29fa176c498a97fce93a572c09c, hexBlock 0) := by decide +kernel

/-- P1, command 2. -/
theorem test_enc :
    ((nextOf (exec (.enc 0x2000 0x10) p1Ready)).map fun t => (t.status, t.cv, t.mem.bytes 0x2000 16)) =
      some (0x00, hexBlock 0x8ea2b7ca516745bfeafc49904b496089, hexBlock 0x8ea2b7ca516745bfeafc49904b496089) := by
  decide +kernel

/-- TV-S1's InvCipher with a zero chaining value; R185: CV is the ciphertext. -/
theorem test_dec :
    ((nextOf (exec (.dec 0x2000 0x10) { p1Ready with mem := put [] 0x2000 16 0x8ea2b7ca516745bfeafc49904b496089 })).map
      fun t => (t.status, t.cv, t.mem.bytes 0x2000 16)) =
      some (0x00, hexBlock 0x8ea2b7ca516745bfeafc49904b496089, hexBlock 0x00112233445566778899aabbccddeeff) := by
  decide +kernel

/-! TV-E: errors and their priority. -/

theorem test_error_codes :
    codeAfter p1Ready ⟨0x00, 0x2000, 0x10⟩ = some (0x01, false) ∧
    codeAfter p1Start ⟨0x31, 0xfffffff0, 0x1020⟩ = some (0x02, false) ∧
    codeAfter p1Start ⟨0x02, 0x2000, 0x05⟩ = some (0x03, false) ∧
    codeAfter p1Ready ⟨0x03, 0xfffffff8, 0x11⟩ = some (0x04, false) ∧
    codeAfter p1Ready ⟨0x02, 0xfffffff1, 0x10⟩ = some (0x05, false) ∧
    codeAfter p1Start ⟨0x21, 0xffffffe1, 0x1020⟩ = some (0x05, false) := by decide +kernel

theorem test_edge_of_memory :
    codeAfter p1Start ⟨0x21, 0xffffffe0, 0x1020⟩ = some (0x00, true) ∧
    codeAfter p1Ready ⟨0x02, 0xffffffff, 0x00⟩ = some (0x00, true) := by decide +kernel

theorem test_narrow_memory :
    codeAfter { p1Ready with params := ⟨16, []⟩ } ⟨0x02, 0x10000, 0x10⟩ = some (0x05, false) := by decide +kernel

/-- P5's last rows: a listed micro-op runs through `step` and takes the input. -/
theorem test_micro_input :
    ((nextOf (step { withS 0x00102030405060708090a0b0c0d0e0f0 with inputs := [.micro 0x10] })).map
      fun t => (t.mat, t.inputs)) = some (hexBlock 0x63cab7040953d051cd60e0e7ba70e18c, []) := by decide +kernel

/-- R33: the sequencer's first move of an ENC loads the block, runs `ARK 0` (TV-R1, row 1) and advances SEQ. -/
theorem test_sequencer_first_move :
    ((nextOf (step { p1Ready with phase := .busy, cur := ⟨0x02, 0x2000, 0x10⟩ })).map
      fun t => (t.mat, t.seq, t.phase)) =
      some (hexBlock 0x00102030405060708090a0b0c0d0e0f0, ⟨0, 1⟩, .busy) := by decide +kernel

/-- R254: a busy core keeps the host's next command waiting. -/
theorem test_busy_keeps_command :
    ((nextOf (step { p1Ready with phase := .busy, cur := ⟨0x02, 0x2000, 0x10⟩, inputs := [.issue ⟨0, 0, 0⟩] })).map
      fun t => (t.cur, t.inputs.length)) = some (⟨0x02, 0x2000, 0x10⟩, 1) := by decide +kernel

/-- R253: a busy core shows the host no byte of its buffer, and every other byte; an idle core shows the buffer. -/
theorem test_host_reads :
    midBlock.hostRead 0x2001 = none ∧ midBlock.hostRead 0x1001 = some 0x01 ∧ p1Ready.hostRead 0x2001 = some 0x11 := by
  decide +kernel

/-- R253: a host read of the busy buffer waits; one of the key (TV-S1) takes place at once. -/
theorem test_busy_host_read :
    ((nextOf (step { midBlock with inputs := [.load 0x2001] })).map fun t => (t.inputs.length, t.seen)) = some (1, []) ∧
    ((nextOf (step { midBlock with inputs := [.load 0x1001] })).map fun t => (t.inputs.length, t.seen)) =
      some (0, [(0x1001, 0x01)]) := by decide +kernel

/-- R253, R260: an INIT with KSZ = 3 keeps the host from its IV region, first to last byte, and from nothing else. -/
theorem test_busy_invalid_init :
    let s : State := { p1Start with phase := .busy, cur := ⟨0x31, 0x1000, 0x1020⟩ }
    s.hostRead 0x1020 = none ∧ s.hostRead 0x102f = none ∧ s.hostRead 0x1001 = some 0x01 ∧
    s.hostRead 0x1030 = some 0x00 := by decide +kernel

/-- TV-PAD. -/
theorem test_pad_lengths :
    [0, 1, 14, 15, 16, 17, 31, 32, 33].map padLen = [16, 15, 2, 1, 16, 15, 1, 16, 15] := by decide

/-- TV-S6: an aligned plaintext receives a block of 0x10 under FULL_BLOCK, and nothing under NONE. -/
theorem test_pad_aligned :
    pad .fullBlock (List.replicate 16 0) = List.replicate 16 0 ++ List.replicate 16 0x10 ∧
    pad .none (List.replicate 16 0) = List.replicate 16 0 := by decide

/-- R37: the state after reset runs the instruction that withFetchWord gives it. -/
theorem test_first_instruction_after_reset :
    ((nextOf (step (State.reset.withFetchWord 96 (0x02 + 0x2000 * 2 ^ 32 + 0x10 * 2 ^ 64)))).map
      fun t => (t.status, t.cur, t.inputs.length)) = some (0x03, ⟨0x02, 0x2000, 0x10⟩, 0) := by decide +kernel

/-! Helpers for the witnesses. -/

theorem exists_next {r : Result} (h : (nextOf r).isSome = true) : ∃ t, r = .next t := by
  cases r with
  | next t => exact ⟨t, rfl⟩
  | fault e => cases h
  | refused e => cases h

theorem answers_default {g : Region} (h : g.base + g.size ≤ 2 ^ 32) : answers Params.default g := by
  intro x hx
  obtain ⟨h1, h2⟩ := Region.has_iff.mp hx
  refine Params.admits_iff.mpr ⟨Nat.lt_of_lt_of_le h2 h, fun g hg => ?_⟩
  cases hg

theorem midBlock_inv : Inv midBlock := by
  refine ⟨by decide, by decide +kernel, ?_, by decide, ?_⟩
  · intro c hc
    have : ∀ c ∈ midBlock.mem, c.1 < 2 ^ midBlock.params.addrWidth := by decide +kernel
    exact this c hc
  · intro _ a len h
    have hd : decodeCommand midBlock.cur = .instr (.enc 0x2000 0x10) := by decide
    rw [hd] at h
    simp only [Decoded.instr.injEq, Instr.enc.injEq, reduceCtorEq, or_false] at h
    obtain ⟨rfl, rfl⟩ := h
    right
    decide +kernel

/-- An idle core about to encrypt P1's block. -/
def aboutToEnc : State := { p1Ready with inputs := [.issue ⟨0x02, 0x2000, 0x10⟩] }

theorem aboutToEnc_inv : Inv aboutToEnc := by
  refine ⟨by decide, by decide +kernel, ?_, by decide, fun h => by cases h⟩
  intro c hc
  have : ∀ c ∈ aboutToEnc.mem, c.1 < 2 ^ aboutToEnc.params.addrWidth := by decide +kernel
  exact this c hc

/-- A memory with a hole inside P1's plaintext and one inside the IV. -/
def holed : State := { p1Ready with params := ⟨32, [⟨0x2008, 1⟩, ⟨0x102f, 1⟩]⟩ }

/-! Witnesses: the hypotheses of the obligation of the same name, met together. -/

theorem witness_DecodeOfEncodeIsTheInstruction :
    (Instr.ark 14).wellFormed = true ∧ (Instr.init 3 0xffffffff 0xffffffff).wellFormed = true := by decide

theorem witness_AcceptedCodeIsTheEncoding :
    decode (.command ⟨0x31, 1, 2⟩) = .instr (.init 3 1 2) ∧ decode (.microOp 0x0e) = .instr (.ark 14) := by decide

theorem witness_CommandMapHasOneRowPerValue :
    ∀ cmd ∈ ([0x00, 0x04, 0x12, 0x41, 0xffffffff] : List Word32),
      cmd ≠ 0x01 ∧ cmd ≠ 0x11 ∧ cmd ≠ 0x21 ∧ cmd ≠ 0x31 ∧ cmd ≠ 0x02 ∧ cmd ≠ 0x03 := by simp

theorem witness_MicroOpMap :
    (14 : BitVec 4) ≠ 15 ∧
    ∀ u ∈ ([0x0f, 0x11, 0x61, 0x70, 0xff] : List Byte),
      0x0f ≤ u.toNat ∧ u ≠ 0x10 ∧ u ≠ 0x20 ∧ u ≠ 0x30 ∧ u ≠ 0x40 ∧ u ≠ 0x50 ∧ u ≠ 0x60 := by decide

theorem witness_SboxIsAffineOfInverse : (1 : Byte) ≠ 0 ∧ (0xff : Byte) ≠ 0 := by decide

theorem witness_RoundConstants : 1 ≤ 1 ∧ 1 ≤ 10 := by decide

/-- The first and the last word of each loop; `i % Nk` is 0, 4 and another value for Nk = 8. -/
theorem witness_KeyExpansionRecurrence :
    (7 < KeySize.nk8.words ∧ 3 < 4) ∧
    (∀ i ∈ [8, 12, 59], KeySize.nk8.words ≤ i ∧ i < KeySize.nk8.scheduleWords) ∧
    (∀ i ∈ [6, 10, 51], KeySize.nk6.words ≤ i ∧ i < KeySize.nk6.scheduleWords) ∧
    (∀ i ∈ [4, 8, 43], KeySize.nk4.words ≤ i ∧ i < KeySize.nk4.scheduleWords) := by decide

theorem witness_RoundKeyIsSliceOfSchedule : 14 ≤ 14 ∧ 3 < 4 := by decide

theorem witness_SubBytesMeaning : 0 < 16 ∧ 15 < 16 := by decide

theorem witness_ShiftRowsMeaning :
    (3 < 4) ∧
    let b := hexBlock 0x00010203000102030001020300010203
    ∀ (r c : Nat) (hr : r < 4) (hc : c < 4), b[r + 4 * c] = b[r] := by
  refine ⟨by decide, fun r c hr hc => ?_⟩
  revert c
  revert r
  decide +kernel

theorem witness_MixColumnsMeaning :
    (3 < 4) ∧ ∀ (r : Nat) (hr : r < 4), (hexBlock 0xc6c6c6c6)[r + 4 * 3] = 0xc6 := by decide +kernel

/-- The largest round index of each key size, and a zero round key. -/
theorem witness_AddRoundKeyMeaning :
    (14 : BitVec 4).toNat ≤ p1Ready.nr ∧ (12 : BitVec 4).toNat ≤ ({ p1Ready with nk := .nk6 } : State).nr ∧
    (10 : BitVec 4).toNat ≤ ({ p1Ready with nk := .nk4 } : State).nr ∧
    roundKey State.reset.w 14 = Block.zero := by decide +kernel

theorem witness_InvShiftRowsMeaning : 0 < 4 ∧ 3 < 4 := by decide

theorem witness_InvSubBytesMeaning : 0 < 16 ∧ 15 < 16 := by decide

theorem witness_InvMixColumnsMeaning :
    (∀ (r : Nat) (hr : r < 4), (hexBlock 0xc6c6c6c6)[r + 4 * 3] = 0xc6) ∧
    (let b := hexBlock 0x8e4da1bc000000000000000000000000
     (b[0], b[1], b[2], b[3]) = ((0x8e, 0x4d, 0xa1, 0xbc) : Byte × Byte × Byte × Byte)) := by decide +kernel

theorem witness_IllFormedMicroOpsAreRefused :
    7 ≤ (clsField 0x70).toNat ∧
    (1 ≤ (clsField 0x61).toNat ∧ (clsField 0x61).toNat ≤ 6 ∧ rndField 0x61 ≠ 0) ∧
    (clsField 0x0b = 0 ∧ ({ p1Ready with nk := .nk4 } : State).nr < (rndField 0x0b).toNat) ∧
    0x0e ∈ fwdProgram p1Ready.nr ∧ 0x60 ∈ invProgram p1Ready.nr := by decide +kernel

theorem witness_InvCipherInvertsCipher : 1 ≤ KeySize.nk8.rounds ∧ 1 ≤ 1 := by decide

theorem witness_CipherStructure : 1 ≤ 14 ∧ 1 ≤ 13 ∧ 13 < 14 := by decide

theorem initReady_p1Start (nk : KeySize) : InitReady p1Start nk 0x1000 0x1020 := by
  have h : keySizeOf 0 = some .nk4 := rfl
  refine ⟨?_, by decide, answers_default ?_, answers_default (by decide)⟩ <;> cases nk <;> decide

/-- Every key size with both regions answered; the key region, and the IV region, one past the top. -/
theorem witness_InitLoadsTheContext :
    (keySizeOf 0 = some .nk4 ∧ InitReady p1Start .nk4 0x1000 0x1020) ∧
    (keySizeOf 1 = some .nk6 ∧ InitReady p1Start .nk6 0x1000 0x1020) ∧
    (keySizeOf 2 = some .nk8 ∧ InitReady p1Start .nk8 0x1000 0x1020) ∧
    p1Start.params.inRange (keyRegion .nk8 0xffffffe1) = false ∧
    p1Start.params.inRange (ivRegion 0xfffffff1) = false :=
  ⟨⟨rfl, initReady_p1Start _⟩, ⟨rfl, initReady_p1Start _⟩, ⟨rfl, initReady_p1Start _⟩, by decide, by decide⟩

theorem witness_KeySizesOfKsz : (1 : BitVec 2) ≠ 0 ∧ (3 : BitVec 2) ≠ 0 := by decide

/-- The plaintext of P1, and the last block of the address space. -/
theorem witness_EncBlockStep :
    p1Ready.params.refusedAt 0x2000 16 = none ∧ p1Ready.params.refusedAt 0xfffffff0 16 = none := by decide +kernel

theorem witness_DecBlockStep :
    p1Ready.params.refusedAt 0x2000 16 = none ∧ p1Ready.params.refusedAt 0xfffffff0 16 = none := by decide +kernel

theorem bufferReady_p1Ready (a len : Word32) (h1 : len.toNat % 16 = 0) (h2 : a.toNat + len.toNat ≤ 2 ^ 32) :
    BufferReady p1Ready a len :=
  ⟨rfl, h1, Params.inRange_iff.mpr (.inr h2), answers_default h2⟩

/-- One block, several blocks, none, and a buffer that ends at the top. -/
theorem witness_EncryptsTheBuffer :
    p1Ready.mem.wf = true ∧ BufferReady p1Ready 0x2000 0x10 ∧ BufferReady p1Ready 0x2000 0x40 ∧
    BufferReady p1Ready 0x2000 0 ∧ BufferReady p1Ready 0xfffffff0 0x10 :=
  ⟨by decide +kernel, bufferReady_p1Ready _ _ (by decide) (by decide), bufferReady_p1Ready _ _ (by decide) (by decide),
    bufferReady_p1Ready _ _ (by decide) (by decide), bufferReady_p1Ready _ _ (by decide) (by decide)⟩

theorem witness_DecryptsTheBuffer :
    p1Ready.mem.wf = true ∧ BufferReady p1Ready 0x2000 0x40 ∧ BufferReady p1Ready 0xfffffff0 0x10 :=
  ⟨by decide +kernel, bufferReady_p1Ready _ _ (by decide) (by decide), bufferReady_p1Ready _ _ (by decide) (by decide)⟩

theorem witness_EmptyBufferChangesNothing : p1Ready.ctxValid = true := by decide

/-- One row of TV-E per clause. -/
theorem witness_ErrorsInTheOrderOfChecks :
    p1Start.phase = .idle ∧
    decodeCommand ⟨0x42, 0x2000, 0x10⟩ = .rejected .reservedBits ∧
    decodeCommand ⟨0x31, 0x1000, 0x1020⟩ = .instr (.init 3 0x1000 0x1020) ∧
    (decodeCommand ⟨0x21, 0xffffffe1, 0x1020⟩ = .instr (.init 2 0xffffffe1 0x1020) ∧ keySizeOf 2 = some .nk8 ∧
      p1Start.params.inRange (keyRegion .nk8 0xffffffe1) = false) ∧
    (decodeCommand ⟨0x01, 0x1000, 0xfffffff1⟩ = .instr (.init 0 0x1000 0xfffffff1) ∧ keySizeOf 0 = some .nk4 ∧
      p1Start.params.inRange (ivRegion 0xfffffff1) = false) ∧
    (decodeCommand ⟨0x02, 0x2000, 0x05⟩ = .instr (.enc 0x2000 0x05) ∧ p1Start.ctxValid = false) ∧
    (decodeCommand ⟨0x03, 0xfffffff8, 0x11⟩ = .instr (.dec 0xfffffff8 0x11) ∧ p1Ready.ctxValid = true ∧
      (0x11 : Word32).toNat % 16 ≠ 0) ∧
    (decodeCommand ⟨0x02, 0xfffffff1, 0x10⟩ = .instr (.enc 0xfffffff1 0x10) ∧
      (0x10 : Word32).toNat % 16 = 0 ∧ p1Ready.params.inRange (bufRegion 0xfffffff1 0x10) = false) := by decide

/-- An OK response and an error response. -/
theorem witness_ResponseIsOkOrUntouchedMemory :
    (aboutToEnc.phase = .idle ∧ aboutToEnc.inputs = .issue ⟨0x02, 0x2000, 0x10⟩ :: [] ∧
      ∃ t, step aboutToEnc = .next t) ∧
    (∃ t, step { p1Start with inputs := [.issue ⟨0x02, 0x2000, 0x10⟩] } = .next t) :=
  ⟨⟨rfl, rfl, exists_next (by decide +kernel)⟩, exists_next (by decide +kernel)⟩

/-- A command that decodes and one that does not. -/
theorem witness_OnlyInitOpensASession :
    p1Start.phase = .idle ∧ p1Start.ctxValid = false ∧
    (∀ ksz a b, decodeCommand ⟨0x03, 0x2000, 0x10⟩ ≠ .instr (.init ksz a b)) ∧
    (∀ ksz a b, decodeCommand ⟨0x00, 0, 0⟩ ≠ .instr (.init ksz a b)) := by
  have h1 : decodeCommand ⟨0x03, 0x2000, 0x10⟩ = .instr (.dec 0x2000 0x10) := by decide
  have h2 : decodeCommand ⟨0x00, 0, 0⟩ = .rejected .reservedOp := by decide
  refine ⟨rfl, rfl, fun ksz a b => ?_, fun ksz a b => ?_⟩
  · rw [h1]; simp
  · rw [h2]; simp

/-- An ENC of a block and a micro-op. -/
theorem witness_ScheduleAndKeySizeStayWithTheContext :
    (∃ t, exec (.enc 0x2000 0x10) p1Ready = .next t ∧ t.ctxValid = true) ∧
    (∃ t, exec .mc p1Ready = .next t ∧ t.ctxValid = true) := by
  have h : ∀ r : Result, ((nextOf r).map (·.ctxValid)) = some true → ∃ t, r = .next t ∧ t.ctxValid = true := by
    intro r h
    cases r with
    | next t => exact ⟨t, rfl, by simpa [nextOf] using h⟩
    | fault e => cases h
    | refused e => cases h
  exact ⟨h _ (by decide +kernel), h _ (by decide +kernel)⟩

theorem witness_OnlyTheBufferIsWritten :
    (∃ t, exec (.enc 0x2000 0x10) p1Ready = .next t) ∧ (∃ t, exec (.dec 0x2000 0x10) p1Ready = .next t) ∧
    (∃ t, exec (.init 2 0x1000 0x1020) p1Start = .next t) ∧ (∃ t, exec (.ark 14) p1Ready = .next t) ∧
    (bufRegion 0x2000 0x10).has 0x1fff = false ∧ (bufRegion 0x2000 0x10).has 0x2010 = false :=
  ⟨exists_next (by decide +kernel), exists_next (by decide +kernel), exists_next (by decide +kernel),
    exists_next (by decide +kernel), by decide, by decide⟩

/-- A hole inside the buffer; inside the key region; inside the IV region only; and at the block in progress. -/
theorem witness_UnansweredAccessIsStuck :
    (bufferError holed 0x2000 0x10 = none ∧ holed.params.refusedAt (0x2000 : Word32).toNat (0x10 : Word32).toNat = some 0x2008) ∧
    (keySizeOf 2 = some .nk8 ∧ initInRange holed .nk8 0x2000 0x1000 = true ∧
      holed.params.refusedAt (0x2000 : Word32).toNat (4 * KeySize.nk8.words) = some 0x2008) ∧
    (initInRange holed .nk8 0x1000 0x1020 = true ∧
      holed.params.refusedAt (0x1000 : Word32).toNat (4 * KeySize.nk8.words) = none ∧
      holed.params.refusedAt (0x1020 : Word32).toNat 16 = some 0x102f) ∧
    (let s : State := { holed with phase := .busy, cur := ⟨0x03, 0x1ff0, 0x20⟩, seq := ⟨1, 0⟩ }
     s.inputs = [] ∧ decodeCommand s.cur = .instr (.dec 0x1ff0 0x20) ∧ bufferError s 0x1ff0 0x20 = none ∧
      s.seq.blk < blockCount 0x20 ∧ s.seq.step = 0 ∧
      s.params.refusedAt (blockAddr 0x1ff0 s.seq.blk) 16 = some 0x2008) := by decide +kernel

theorem witness_AnsweredCommandsEnd :
    aboutToEnc.phase = .idle ∧ aboutToEnc.inputs = .issue ⟨0x02, 0x2000, 0x10⟩ :: [] ∧ aboutToEnc.params.holes = [] := by
  decide +kernel

/-- A split into 16 and 48 bytes, and the split whose second part is empty and starts at the top of memory. -/
theorem witness_EncContinuesAcrossCalls :
    p1Ready.params.wf ∧ BufferReady p1Ready 0x2000 0x40 ∧
    (0x10 : Word32).toNat % 16 = 0 ∧ (0x30 : Word32).toNat % 16 = 0 ∧
    (0x40 : Word32).toNat = (0x10 : Word32).toNat + (0x30 : Word32).toNat ∧
    BufferReady p1Ready 0xfffffff0 0x10 ∧ (0x10 : Word32).toNat = (0x10 : Word32).toNat + (0 : Word32).toNat :=
  ⟨by decide, bufferReady_p1Ready _ _ (by decide) (by decide), by decide, by decide, by decide,
    bufferReady_p1Ready _ _ (by decide) (by decide), by decide⟩

theorem witness_DecContinuesAcrossCalls :
    p1Ready.params.wf ∧ BufferReady p1Ready 0x2000 0x40 ∧
    (0x30 : Word32).toNat % 16 = 0 ∧ (0x10 : Word32).toNat % 16 = 0 ∧
    (0x40 : Word32).toNat = (0x30 : Word32).toNat + (0x10 : Word32).toNat :=
  ⟨by decide, bufferReady_p1Ready _ _ (by decide) (by decide), by decide, by decide, by decide⟩

theorem apart_of_le {g h : Region} (hle : h.base + h.size ≤ g.base) : apart g h := by
  rintro x ⟨hg, hh⟩
  have := Region.has_iff.mp hg
  have := Region.has_iff.mp hh
  omega

theorem witness_DecryptOfEncryptIsThePlaintext :
    p1Start.mem.wf = true ∧ keySizeOf 2 = some .nk8 ∧ InitReady p1Start .nk8 0x1000 0x1020 ∧
    (0x40 : Word32).toNat % 16 = 0 ∧ p1Start.params.inRange (bufRegion 0x2000 0x40) = true ∧
    answers p1Start.params (bufRegion 0x2000 0x40) ∧
    apart (bufRegion 0x2000 0x40) (keyRegion .nk8 0x1000) ∧ apart (bufRegion 0x2000 0x40) (ivRegion 0x1020) :=
  ⟨by decide +kernel, rfl, initReady_p1Start _, by decide, by decide, answers_default (by decide),
    apart_of_le (by decide), apart_of_le (by decide)⟩

/-- The flip of TV-C5's kind: bit 2 of byte 5 of block 1, and the last bit of the last block. -/
theorem witness_OneFlippedBitSpoilsTwoBlocks (i q b : Nat)
    (h : (i, q, b) = (1, 5, 2) ∨ (i, q, b) = (3, 15, 7)) :
    ∃ m : Memory, p1Ready.mem.wf = true ∧ m.wf = true ∧ BufferReady p1Ready 0x2000 0x40 ∧
      i < blockCount 0x40 ∧ q < 16 ∧ b < 8 ∧
      ∀ x, m.read x =
        if x = blockAddr 0x2000 i + q then p1Ready.mem.read x ^^^ (1#8 <<< b) else p1Ready.mem.read x := by
  have hwf : p1Ready.mem.wf = true := by decide +kernel
  refine ⟨p1Ready.mem.write (blockAddr 0x2000 i + q)
    (p1Ready.mem.read (blockAddr 0x2000 i + q) ^^^ (1#8 <<< b)), hwf, Memory.wf_write hwf _ _,
    bufferReady_p1Ready _ _ (by decide) (by decide), ?_, ?_, ?_, fun x => ?_⟩
  · rcases h with h | h <;> cases h <;> decide
  · rcases h with h | h <;> cases h <;> decide
  · rcases h with h | h <;> cases h <;> decide
  · split
    · next hx => rw [hx, Memory.read_write_self hwf]
    · next hx => exact Memory.read_write_other _ _ hx

/-- Two states that differ in S, SAVE, SEQ and a byte outside the buffer. -/
theorem witness_ResultDependsOnContextAndBufferOnly :
    let u : State := { p1Ready with mat := hexBlock 1, save := hexBlock 2, seq := ⟨7, 7⟩,
                                    mem := p1Ready.mem.write 0x3000 0xff }
    p1Ready.mem.wf = true ∧ u.mem.wf = true ∧ p1Ready.ctxValid = u.ctxValid ∧ p1Ready.nk = u.nk ∧
    sameKeys p1Ready.nk p1Ready.w u.w ∧ p1Ready.cv = u.cv ∧ p1Ready.params = u.params ∧
    (∀ x, (bufRegion 0x2000 0x10).has x = true → p1Ready.mem.read x = u.mem.read x) ∧ p1Ready ≠ u := by
  have hwf : p1Ready.mem.wf = true := by decide +kernel
  refine ⟨hwf, Memory.wf_write hwf 0x3000 0xff, rfl, rfl, fun _ _ => rfl, rfl, rfl, fun x hx => ?_, ?_⟩
  · have hx' := Region.has_iff.mp hx
    have h1 : (0x2000 : Word32).toNat = 0x2000 := rfl
    have h2 : (0x10 : Word32).toNat = 0x10 := rfl
    simp only [bufRegion, h1, h2] at hx'
    show _ = (p1Ready.mem.write 0x3000 0xff).read x
    exact (Memory.read_write_other _ _ (by omega)).symm
  · intro he
    have := congrArg (fun s : State => s.seq.blk) he
    simp [p1Ready, p1Start, State.reset] at this

/-- One input per clause. -/
theorem witness_StepRunsTheDecodedInstruction :
    (aboutToEnc.phase = .idle ∧ aboutToEnc.inputs = .issue ⟨0x02, 0x2000, 0x10⟩ :: [] ∧
      decodeCommand ⟨0x02, 0x2000, 0x10⟩ = .instr (.enc 0x2000 0x10)) ∧
    decodeMicroOp 0x30 = .instr .mc ∧ decodeTableWord 8 0x0e = some (.ark 14) ∧
    (32 ≠ 8 ∧ decodeTableWord 32 0x31 = some (.init 3 0 0)) := by decide +kernel

theorem witness_SequencerRefinesTheCommand :
    p1Ready.phase = .idle ∧ 2 + 4 * (0x10 : Word32).toNat ≤ 66 := by decide

/-- A busy core inside a block and an idle core with a command to issue. -/
theorem witness_EveryStepKeepsTheInvariant :
    (Inv midBlock ∧ ∃ t, step midBlock = .next t) ∧ (Inv aboutToEnc ∧ ∃ t, step aboutToEnc = .next t) :=
  ⟨⟨midBlock_inv, exists_next (by decide +kernel)⟩, ⟨aboutToEnc_inv, exists_next (by decide +kernel)⟩⟩

theorem witness_SequencerStaysInItsProgram : Inv midBlock ∧ midBlock.phase = .busy := ⟨midBlock_inv, rfl⟩

theorem witness_ParametersNeverChange : ∃ t, step midBlock = .next t := exists_next (by decide +kernel)

/-- A busy core whose host has a command, or a test a micro-op, waiting. -/
theorem witness_BusyCoreTakesNoCommand :
    midBlock.phase = .busy ∧ (∃ t, step { midBlock with inputs := [.issue ⟨0, 0, 0⟩] } = .next t) ∧
    (∃ t, step { midBlock with inputs := [.start ⟨0, 0, 0⟩] } = .next t) ∧
    (∃ t, step { midBlock with inputs := [.micro 0x10] } = .next t) :=
  ⟨rfl, exists_next (by decide +kernel), exists_next (by decide +kernel), exists_next (by decide +kernel)⟩

/-- An idle access at the top of memory; a busy access one past the buffer; a busy access to the buffer's last byte; and
an access to a hole. -/
theorem witness_HostAccesses :
    (Input.load 0x2000 = .store 0x2000 0 ∨ Input.load 0x2000 = .load 0x2000) ∧
    (p1Ready.params.admits (0xffffffff : Word32).toNat = true ∧ p1Ready.phase = .idle) ∧
    (midBlock.params.admits (0x2010 : Word32).toNat = true ∧ inBusyRegion midBlock 0x2010 = false) ∧
    (midBlock.phase = .busy ∧ inBusyRegion midBlock 0x200f = true) ∧
    (holed.params.admits (0x2008 : Word32).toNat = false ∧ holed.phase = .idle) ∧
    (0x2010, 0xff) ∈ ({ midBlock with mem := midBlock.mem.write 0x2010 0xff } : State).observe.dmem := by decide +kernel

theorem witness_IdleKeepsEverything : p1Ready.phase = .idle ∧ p1Ready.inputs = [] := by decide

theorem witness_ResetAtAnyTime :
    ({ p1Ready with inputs := [.reset] } : State).inputs = .reset :: [] ∧ p1Ready.phase = .idle := by decide

/-- Reset in an ENC, with the buffer's last byte and its neighbours, and in an INIT. -/
theorem witness_ResetWhileBusy :
    let s : State := { midBlock with inputs := [.reset] }
    s.phase = .busy ∧ s.inputs = .reset :: [] ∧ s.mem.wf = true ∧
    decodeCommand s.cur = .instr (.enc 0x2000 0x10) ∧
    (bufRegion 0x2000 0x10).has 0x1fff = false ∧ (bufRegion 0x2000 0x10).has 0x2010 = false ∧
    (15 < (0x10 : Word32).toNat ∧ (0x2000 : Word32).toNat + 15 < 2 ^ s.params.addrWidth) ∧
    decodeCommand ({ s with cur := ⟨0x21, 0x1000, 0x1020⟩ } : State).cur = .instr (.init 2 0x1000 0x1020) := by
  decide +kernel

/-- A length that is not a multiple of 16, and one that is. -/
theorem witness_PaddingFillsTheLastBlock :
    (List.replicate 15 (0 : Byte)).length % 16 ≠ 0 ∧ ([] : List Byte).length % 16 = 0 := by decide

end Sys2Proof.Tests
end

/-! What one step can do to the parameters, to memory, to STATUS and to the place in the running command (10_state.md
R33), said once; the invariant and the frame of the parameters are derived from it. -/

namespace Sys2Proof.Machine

/-! Memory inside the address space (20_memory.md R46). -/

/-- A cell of a written memory is an old one or at the written address. -/
theorem Memory.mem_write {m : Memory} {a : Nat} {v : Byte} {c : Host.Cell} (h : c ∈ m.write a v) :
    c ∈ m ∨ c.1 = a := by
  induction m with
  | nil =>
    unfold Memory.write at h
    split at h
    · exact .inl h
    · exact .inr (congrArg Prod.fst (List.mem_singleton.mp h))
  | cons d m ih =>
    unfold Memory.write at h
    split at h
    · split at h
      · exact .inl h
      · exact (List.mem_cons.mp h).symm.imp_right (congrArg Prod.fst)
    · split at h
      · split at h
        · exact .inl (List.mem_cons_of_mem _ h)
        · exact (List.mem_cons.mp h).symm.imp (List.mem_cons_of_mem _) (congrArg Prod.fst)
      · rcases List.mem_cons.mp h with rfl | h
        · exact .inl List.mem_cons_self
        · exact (ih h).imp_left (List.mem_cons_of_mem _)

/-- A cell of a memory with bytes written is an old one or at a written address. -/
theorem Memory.mem_writeBytes {m : Memory} {a : Nat} {vs : List Byte} {c : Host.Cell} (h : c ∈ m.writeBytes a vs) :
    c ∈ m ∨ (a ≤ c.1 ∧ c.1 < a + vs.length) := by
  induction vs generalizing m a with
  | nil => exact .inl h
  | cons v vs ih =>
    simp only [List.length_cons]
    rcases ih h with hw | hlater
    · rcases Memory.mem_write hw with hm | ha
      · exact .inl hm
      · exact .inr (by omega)
    · exact .inr (by omega)

/-- The memory is in canonical form and inside the address space: what `Inv` asks of it. -/
def Stored (p : Params) (m : Memory) : Prop := m.wf = true ∧ ∀ c ∈ m, c.1 < 2 ^ p.addrWidth

/-- Bytes written inside the address space keep the memory canonical and inside it. -/
theorem Stored.writeBytes {p : Params} {m : Memory} (h : Stored p m) {a : Nat} {vs : List Byte}
    (hin : ∀ x, a ≤ x → x < a + vs.length → x < 2 ^ p.addrWidth) : Stored p (m.writeBytes a vs) := by
  refine ⟨Memory.wf_writeBytes h.1 a vs, fun c hc => ?_⟩
  rcases Memory.mem_writeBytes hc with hm | ⟨hlo, hhi⟩
  · exact h.2 c hm
  · exact hin c.1 hlo hhi

/-! Three relations between a state and a later one. -/

/-- What every operation keeps: the parameters, a legal STATUS, and a memory in canonical form and inside the address
space. -/
structure Kept (s t : State) : Prop where
  params : t.params = s.params
  status : s.status.toNat ≤ 5 → t.status.toNat ≤ 5
  stored : Stored s.params s.mem → Stored t.params t.mem

/-- What every operation inside a command keeps besides: the context flag and key size, and the place in the command. -/
structure Quiet (s t : State) : Prop extends Kept s t where
  ctxValid : t.ctxValid = s.ctxValid
  nk : t.nk = s.nk
  phase : t.phase = s.phase
  cur : t.cur = s.cur
  seq : t.seq = s.seq

/-- The core is IDLE afterwards: a command has responded, or a reset has taken place. -/
structure Ended (s t : State) : Prop extends Kept s t where
  idle : t.phase = .idle

theorem Kept.trans {s t u : State} (h : Kept s t) (k : Kept t u) : Kept s u :=
  ⟨k.params.trans h.params, k.status ∘ h.status, k.stored ∘ h.stored⟩

theorem Kept.ended {s t u : State} (h : Kept s t) (k : Ended t u) : Ended s u := ⟨h.trans k.toKept, k.idle⟩

theorem Quiet.refl (s : State) : Quiet s s := ⟨⟨rfl, id, id⟩, rfl, rfl, rfl, rfl, rfl⟩

theorem Quiet.trans {s t u : State} (h : Quiet s t) (k : Quiet t u) : Quiet s u :=
  ⟨h.toKept.trans k.toKept, k.ctxValid.trans h.ctxValid, k.nk.trans h.nk, k.phase.trans h.phase, k.cur.trans h.cur,
    k.seq.trans h.seq⟩

theorem Quiet.nr {s t : State} (h : Quiet s t) : t.nr = s.nr := congrArg KeySize.rounds h.nk

theorem Quiet.bufferError {s t : State} (h : Quiet s t) (a len : Word32) :
    Machine.bufferError t a len = Machine.bufferError s a len :=
  bufferError_congr h.ctxValid h.params a len

/-! The named updates of the state. -/

theorem quiet_withMat (s : State) (b : Block) : Quiet s (s.withMat b) := ⟨⟨rfl, id, id⟩, rfl, rfl, rfl, rfl, rfl⟩
theorem quiet_withSave (s : State) (b : Block) : Quiet s (s.withSave b) := ⟨⟨rfl, id, id⟩, rfl, rfl, rfl, rfl, rfl⟩
theorem quiet_withCv (s : State) (b : Block) : Quiet s (s.withCv b) := ⟨⟨rfl, id, id⟩, rfl, rfl, rfl, rfl, rfl⟩
theorem quiet_withInputs (s : State) (l : List Input) : Quiet s (s.withInputs l) :=
  ⟨⟨rfl, id, id⟩, rfl, rfl, rfl, rfl, rfl⟩
theorem quiet_withSeen (s : State) (l : List Host.Cell) : Quiet s (s.withSeen l) :=
  ⟨⟨rfl, id, id⟩, rfl, rfl, rfl, rfl, rfl⟩
theorem kept_withSeq (s : State) (p : SeqPos) : Kept s (s.withSeq p) := ⟨rfl, id, id⟩
theorem kept_issued (s : State) (d : Descriptor) : Kept s (s.issued d) := ⟨rfl, id, id⟩

theorem kept_retireMat (s : State) : Kept s s.retireMat := ⟨rfl, id, id⟩
theorem kept_loadContext (s : State) (nk : KeySize) (w : Schedule) (iv : Block) : Kept s (s.loadContext nk w iv) :=
  ⟨rfl, id, id⟩

/-- Every code of 60_exceptions.md R220 is at most 5. -/
theorem statusByte_le (c : StatusCode) : (statusByte c).toNat ≤ 5 := by cases c <;> decide

theorem ended_raiseError (s : State) (c : StatusCode) : Ended s (s.raiseError c) :=
  ⟨⟨rfl, fun _ => statusByte_le c, id⟩, rfl⟩

theorem ended_complete (s : State) : Ended s s.complete := ⟨⟨rfl, fun _ => statusByte_le .ok, id⟩, rfl⟩

theorem ended_finishBlocks (n : Nat) (s : State) : Ended s (finishBlocks n s) := by
  unfold finishBlocks
  split
  · exact ended_complete s
  · exact (kept_retireMat s).ended (ended_complete _)

/-- A buffer that a reset interrupts is inside the address space (log 13). -/
theorem lt_of_interruptedBuffer {s : State} {g : Region} (h : interruptedBuffer s = some g) {x : Nat}
    (hx : g.has x = true) : x < 2 ^ s.params.addrWidth := by
  have hclip : ∃ b, g = s.params.clip b := by
    unfold interruptedBuffer at h
    split at h
    · cases h
    · split at h <;> cases h <;> exact ⟨_, rfl⟩
  obtain ⟨b, rfl⟩ := hclip
  exact (clip_has_iff.mp hx).2

theorem ended_resetNow (s : State) : Ended s s.resetNow := by
  unfold State.resetNow
  split
  · exact ⟨⟨rfl, fun _ => Nat.zero_le 5, id⟩, rfl⟩
  · next g hg =>
    refine ⟨⟨rfl, fun _ => Nat.zero_le 5, fun h => h.writeBytes fun x hlo hhi => ?_⟩, rfl⟩
    exact lt_of_interruptedBuffer hg (Region.has_iff.mpr ⟨hlo, by simpa using hhi⟩)

/-! The accesses, and the parts of a block (45_cbc_commands.md R184, R185). -/

theorem quiet_of_writeAt {n a : Nat} {v : Vector Byte n} {s t : State} (h : writeAt v a s = .next t) : Quiet s t := by
  obtain ⟨hans, rfl⟩ := writeAt_eq_next.mp h
  have hadm := Params.refusedAt_eq_none.mp hans
  refine ⟨⟨rfl, id, fun hs => hs.writeBytes fun x hlo hhi => ?_⟩, rfl, rfl, rfl, rfl, rfl⟩
  exact (Params.admits_iff.mp (hadm x hlo (by simpa using hhi))).1

theorem quiet_of_hostLoad {a : Word32} {s t : State} (h : hostLoad a s = .next t) : Quiet s t := by
  obtain ⟨-, rfl⟩ := hostLoad_eq_next.mp h
  exact quiet_withSeen s _

theorem quiet_of_encLoad {a : Nat} {s t : State} (h : encLoad a s = .next t) : Quiet s t := by
  obtain ⟨-, ht⟩ := readThen_eq_next.mp h
  cases ht
  exact quiet_withMat s _

theorem quiet_of_decLoad {a : Nat} {s t : State} (h : decLoad a s = .next t) : Quiet s t := by
  obtain ⟨-, ht⟩ := readThen_eq_next.mp h
  cases ht
  exact (quiet_withSave s _).trans (quiet_withMat _ _)

theorem quiet_of_encStore {a : Nat} {s t : State} (h : encStore a s = .next t) : Quiet s t := by
  obtain ⟨u, hu, ht⟩ := andThen_eq_next.mp h
  cases ht
  exact (quiet_of_writeAt hu).trans (quiet_withCv u _)

theorem quiet_of_decStore {a : Nat} {s t : State} (h : decStore a s = .next t) : Quiet s t := by
  obtain ⟨u, hu, ht⟩ := andThen_eq_next.mp h
  cases ht
  exact ((quiet_withMat s _).trans (quiet_of_writeAt hu)).trans (quiet_withCv u _)

theorem quiet_of_encBlock {a : Nat} {s t : State} (h : encBlock a s = .next t) : Quiet s t := by
  obtain ⟨u, hu, ht⟩ := andThen_eq_next.mp h
  exact (quiet_of_encLoad hu).trans ((quiet_withMat u _).trans (quiet_of_encStore ht))

theorem quiet_of_decBlock {a : Nat} {s t : State} (h : decBlock a s = .next t) : Quiet s t := by
  obtain ⟨u, hu, ht⟩ := andThen_eq_next.mp h
  exact (quiet_of_decLoad hu).trans ((quiet_withMat u _).trans (quiet_of_decStore ht))

/-! Micro-ops and whole commands. -/

/-- A class other than ARK is one of the six plain micro-ops or reserved (30_encoding.md R81). -/
theorem plainMicroOp_mem {cls : BitVec 4} {i : Instr} (h : plainMicroOp cls = some i) :
    i ∈ [Instr.sb, .sr, .mc, .isb, .isr, .imc] := by
  unfold plainMicroOp at h
  split_ifs at h <;> cases h <;> simp

/-- A micro-op byte decodes to an ARK or to one of the six plain micro-ops, never to a command (30_encoding.md R81). -/
theorem decodeMicroOp_cases {u : Byte} {i : Instr} (h : decodeMicroOp u = .instr i) :
    (∃ r, i = .ark r) ∨ i ∈ [Instr.sb, .sr, .mc, .isb, .isr, .imc] := by
  unfold decodeMicroOp at h
  split at h
  · split at h <;> cases h
    exact .inl ⟨_, rfl⟩
  · split at h
    · cases h
    · next j hj =>
      split at h <;> cases h
      exact .inr (plainMicroOp_mem hj)

/-- A micro-op that runs changes S and nothing else (30_encoding.md R81, R82). -/
theorem runMicroOp_eq_next {u : Byte} {s t : State} (h : runMicroOp u s = .next t) : ∃ b, t = s.withMat b := by
  unfold runMicroOp at h
  split at h
  · next i hi =>
    rcases decodeMicroOp_cases hi with ⟨r, rfl⟩ | hplain
    · change execArk r s = .next t at h
      unfold execArk at h
      split at h <;> cases h
      exact ⟨_, rfl⟩
    · fin_cases hplain <;> cases h <;> exact ⟨_, rfl⟩
  · cases h

theorem quiet_of_runMicroOp {u : Byte} {s t : State} (h : runMicroOp u s = .next t) : Quiet s t := by
  obtain ⟨b, rfl⟩ := runMicroOp_eq_next h
  exact quiet_withMat s b

/-- A command word decodes to one of the three commands or is rejected (30_encoding.md R76). -/
theorem decodeCommand_cases (d : Descriptor) :
    (∃ ksz a b, decodeCommand d = .instr (.init ksz a b)) ∨ (∃ a len, decodeCommand d = .instr (.enc a len)) ∨
      (∃ a len, decodeCommand d = .instr (.dec a len)) ∨ ∃ r, decodeCommand d = .rejected r := by
  unfold decodeCommand
  split
  · simp
  · split
    · simp
    · split
      · split <;> simp
      · split
        · split <;> simp
        · simp

theorem ended_of_execInit {ksz : BitVec 2} {a b : Word32} {s t : State} (h : execInit ksz a b s = .next t) :
    Ended s t := by
  unfold execInit at h
  split at h
  · cases h
    exact ended_raiseError s .keyLen
  · split at h
    · obtain ⟨-, h⟩ := readThen_eq_next.mp h
      obtain ⟨-, h⟩ := readThen_eq_next.mp h
      cases h
      exact (kept_loadContext s _ _ _).ended (ended_complete _)
    · cases h
      exact ended_raiseError s .bounds

theorem ended_of_execIllegal {s t : State} (h : execIllegal s = .next t) : Ended s t := by
  cases h
  exact ended_raiseError s .illegal

/-- ENC and DEC as one step: an error, or the loop over the blocks and then the response. -/
theorem ended_of_bufferCommand {f : Nat → State → Result} (hf : ∀ x s t, f x s = .next t → Kept s t) {a len : Word32}
    {s t : State} (h : bufferCommand f a len s = .next t) : Ended s t := by
  unfold bufferCommand at h
  split at h
  · cases h
    exact ended_raiseError s _
  · obtain ⟨u, hu, ht⟩ := andThen_eq_next.mp h
    cases ht
    have hloop : Kept s u := eachBlock_keeps (P := Kept s) (fun v p hv => hv.trans (kept_withSeq v p))
      (fun x v w hw hv => hv.trans (hf x v w hw)) _ _ _ _ hu (Quiet.refl s).toKept
    exact hloop.ended (ended_finishBlocks _ u)

theorem ended_of_runCommand {d : Descriptor} {s t : State} (h : runCommand d s = .next t) : Ended s t := by
  have hexec : Ended (s.issued d) t := by
    unfold runCommand at h
    rcases decodeCommand_cases d with ⟨ksz, a, b, hd⟩ | ⟨a, len, hd⟩ | ⟨a, len, hd⟩ | ⟨r, hd⟩ <;> rw [hd] at h
    · exact ended_of_execInit h
    · exact ended_of_bufferCommand (fun _ _ _ hf => (quiet_of_encBlock hf).toKept) h
    · exact ended_of_bufferCommand (fun _ _ _ hf => (quiet_of_decBlock hf).toKept) h
    · exact ended_of_execIllegal h
  exact (kept_issued s d).ended hexec

/-! The sequencer (10_state.md R33). -/

/-- The position after `q` in a microprogram of `n` micro-ops over the blocks of a buffer. -/
def NextPos (n : Nat) (len : Word32) (q p : SeqPos) : Prop :=
  (q.step + 1 < n ∧ p = ⟨q.blk, q.step + 1⟩) ∨ (q.blk + 1 < blockCount len ∧ p = ⟨q.blk + 1, 0⟩)

/-- `FWD(Nr)` has `4 * Nr` micro-ops (43_forward_round.md R145). -/
theorem length_fwdProgram {nr : Nat} (h : 1 ≤ nr) : (fwdProgram nr).length = 4 * nr := by
  simp [fwdProgram]
  omega

/-- `INV(Nr)` has `4 * Nr` micro-ops (44_inverse_round.md R165). -/
theorem length_invProgram {nr : Nat} (h : 1 ≤ nr) : (invProgram nr).length = 4 * nr := by
  simp [invProgram]
  omega

theorem one_le_nr (s : State) : 1 ≤ s.nr := by
  unfold State.nr
  cases s.nk <;> decide

/-! One step. -/

/-- The buffer of the ENC or DEC that a descriptor encodes. -/
def HasBuffer (d : Descriptor) (a len : Word32) : Prop :=
  decodeCommand d = .instr (.enc a len) ∨ decodeCommand d = .instr (.dec a len)

theorem HasBuffer.unique {d : Descriptor} {a len a' len' : Word32} (h : HasBuffer d a len)
    (h' : HasBuffer d a' len') : a' = a ∧ len' = len := by
  unfold HasBuffer at h h'
  rcases h with h | h <;> rw [h] at h' <;> rcases h' with h' | h' <;> cases h' <;> exact ⟨rfl, rfl⟩

/-- What a step can do: stay at its place, respond or reset, take up a command, or go on inside an ENC or DEC. -/
inductive Progress (s t : State) : Prop
  | quiet (h : Quiet s t)
  | ended (h : Ended s t)
  | started (h : Kept s t) (atStart : t.seq = ⟨0, 0⟩)
  | advanced {a len : Word32} {v : State} {p : SeqPos} (buffer : HasBuffer s.cur a len)
      (checked : s.seq = ⟨0, 0⟩ → bufferError s a len = none ∧ 0 < blockCount len)
      (quiet : Quiet s v) (next : NextPos (4 * s.nr) len s.seq p) (eq : t = v.withSeq p)

section BufferMove

variable {load store : Nat → State → Result} {program : List Byte} {a len : Word32} {s t : State}

theorem progress_of_endBlock (hstore : ∀ x s t, store x s = .next t → Quiet s t) (hbuf : HasBuffer s.cur a len)
    (hchecked : s.seq = ⟨0, 0⟩ → bufferError s a len = none ∧ 0 < blockCount len) {v : State} (hq : Quiet s v)
    (h : endBlock store a len v = .next t) : Progress s t := by
  obtain ⟨u, hu, ht⟩ := andThen_eq_next.mp h
  have hsu : Quiet s u := hq.trans (hstore _ _ _ hu)
  split at ht <;> cases ht
  · next hlt =>
    rw [hsu.seq] at hlt ⊢
    exact .advanced hbuf hchecked hsu (.inr ⟨hlt, rfl⟩) rfl
  · exact .ended (hsu.toKept.ended (ended_finishBlocks _ u))

theorem progress_of_microMove (hload : ∀ x s t, load x s = .next t → Quiet s t)
    (hstore : ∀ x s t, store x s = .next t → Quiet s t) (hbuf : HasBuffer s.cur a len)
    (hlen : program.length = 4 * s.nr)
    (hchecked : s.seq = ⟨0, 0⟩ → bufferError s a len = none ∧ 0 < blockCount len)
    (h : microMove load store program a len s = .next t) : Progress s t := by
  unfold microMove at h
  split at h
  · cases h
  · obtain ⟨u, hu, h⟩ := andThen_eq_next.mp h
    obtain ⟨v, hv, h⟩ := andThen_eq_next.mp h
    have hsu : Quiet s u := by
      split at hu
      · exact hload _ _ _ hu
      · cases hu
        exact Quiet.refl s
    have hsv : Quiet s v := hsu.trans (quiet_of_runMicroOp hv)
    split at h
    · next hlt =>
      cases h
      rw [hsv.seq, hlen] at hlt
      rw [hsv.seq]
      exact .advanced hbuf hchecked hsv (.inl ⟨hlt, rfl⟩) rfl
    · exact progress_of_endBlock hstore hbuf hchecked hsv h

/-- At the start of a command the checks decide whether SEQ goes on; later moves follow the microprogram. -/
theorem progress_of_bufferMove (hload : ∀ x s t, load x s = .next t → Quiet s t)
    (hstore : ∀ x s t, store x s = .next t → Quiet s t) (hbuf : HasBuffer s.cur a len)
    (hlen : program.length = 4 * s.nr) (h : bufferMove load store program a len s = .next t) : Progress s t := by
  unfold bufferMove at h
  split at h
  · split at h
    · cases h
      exact .ended (ended_raiseError s _)
    · next hchecks =>
      split at h
      · cases h
        exact .ended (ended_finishBlocks 0 s)
      · next hblocks =>
        exact progress_of_microMove hload hstore hbuf hlen (fun _ => ⟨hchecks, Nat.pos_of_ne_zero hblocks⟩) h
  · next hseq => exact progress_of_microMove hload hstore hbuf hlen (fun h0 => absurd h0 hseq) h

end BufferMove

theorem progress_of_coreMove {s t : State} (h : coreMove s = .next t) : Progress s t := by
  unfold coreMove at h
  rcases decodeCommand_cases s.cur with ⟨ksz, a, b, hd⟩ | ⟨a, len, hd⟩ | ⟨a, len, hd⟩ | ⟨r, hd⟩ <;> rw [hd] at h
  · exact .ended (ended_of_execInit h)
  · exact progress_of_bufferMove (fun _ _ _ => quiet_of_encLoad) (fun _ _ _ => quiet_of_encStore) (.inl hd)
      (length_fwdProgram (one_le_nr s)) h
  · exact progress_of_bufferMove (fun _ _ _ => quiet_of_decLoad) (fun _ _ _ => quiet_of_decStore) (.inr hd)
      (length_invProgram (one_le_nr s)) h
  · exact .ended (ended_of_execIllegal h)

/-- Taking an input away changes nothing that a later move's progress is measured by. -/
theorem Progress.of_withInputs {s t : State} {l : List Input} (h : Progress (s.withInputs l) t) : Progress s t := by
  have hq := quiet_withInputs s l
  cases h with
  | quiet h => exact .quiet (hq.trans h)
  | ended h => exact .ended (hq.toKept.ended h)
  | started h hseq => exact .started (hq.toKept.trans h) hseq
  | advanced hbuf hchecked h hnext heq => exact .advanced hbuf hchecked (hq.trans h) hnext heq

theorem progress_of_idleTurn {s t : State} (h : idleTurn s = .next t) : Progress s t := by
  unfold idleTurn at h
  split at h
  · cases h
    exact .quiet (Quiet.refl s)
  · exact Progress.of_withInputs (.ended (ended_of_runCommand h))
  · cases h
    exact Progress.of_withInputs (.started (kept_issued _ _) rfl)
  · exact Progress.of_withInputs (.quiet (quiet_of_writeAt h))
  · exact Progress.of_withInputs (.quiet (quiet_of_hostLoad h))
  · cases h
    exact Progress.of_withInputs (.ended (ended_resetNow _))
  · cases h
    exact .quiet (quiet_withInputs s _)
  · exact Progress.of_withInputs (.quiet (quiet_of_runMicroOp h))

theorem progress_of_busyTurn {s t : State} (h : busyTurn s = .next t) : Progress s t := by
  rcases busyTurn_cases s with ⟨rest, -, hb⟩ | ⟨a, v, rest, -, -, hb⟩ | ⟨a, rest, -, -, hb⟩ | ⟨rest, -, hb⟩ | hb <;>
    rw [hb] at h
  · cases h
    exact Progress.of_withInputs (.ended (ended_resetNow _))
  · exact Progress.of_withInputs (.quiet (quiet_of_writeAt h))
  · exact Progress.of_withInputs (.quiet (quiet_of_hostLoad h))
  · exact Progress.of_withInputs (progress_of_coreMove h)
  · exact progress_of_coreMove h

theorem progress_of_step {s t : State} (h : step s = .next t) : Progress s t := by
  rcases step_cases s with ⟨-, hs⟩ | ⟨-, hs⟩ <;> rw [hs] at h
  · exact progress_of_idleTurn h
  · exact progress_of_busyTurn h

theorem Progress.kept {s t : State} (h : Progress s t) : Kept s t := by
  cases h with
  | quiet h => exact h.toKept
  | ended h => exact h.toKept
  | started h _ => exact h
  | advanced _ _ h _ heq => exact heq ▸ h.toKept.trans (kept_withSeq _ _)

/-! The invariant. -/

theorem inv_iff {s : State} :
    Inv s ↔ s.params.wf ∧ Stored s.params s.mem ∧ s.status.toNat ≤ 5 ∧ SeqInPlace s := by
  simp [Inv, Stored, and_assoc]

theorem SeqInPlace.of_quiet {s t : State} (h : Quiet s t) (hs : SeqInPlace s) : SeqInPlace t := by
  intro hbusy a len hbuf
  rw [h.cur] at hbuf
  rw [h.seq, h.bufferError, h.nr]
  exact hs (h.phase ▸ hbusy) a len hbuf

/-- The next position is inside the buffer and the microprogram when the last one was. -/
theorem NextPos.inside {n : Nat} {len : Word32} {q p : SeqPos} (h : NextPos n len q p) (hn : 0 < n)
    (hq : q.blk < blockCount len) : p.blk < blockCount len ∧ p.step < n := by
  rcases h with ⟨hstep, rfl⟩ | ⟨hblk, rfl⟩
  · exact ⟨hq, hstep⟩
  · exact ⟨hblk, hn⟩

/-- Any progress keeps SEQ in place: at the start of a command nothing is asked, and further moves come only after the
checks have passed. -/
theorem Progress.seqInPlace {s t : State} (h : Progress s t) (hs : SeqInPlace s) : SeqInPlace t := by
  cases h with
  | quiet h => exact hs.of_quiet h
  | ended h =>
    intro hbusy
    rw [h.idle] at hbusy
    cases hbusy
  | started _ hseq => exact fun _ _ _ _ => .inl hseq
  | @advanced a len v p hbuf hchecked h hnext heq =>
    subst heq
    intro hbusy a' len' hbuf'
    have hbusy_s : s.phase = .busy := h.phase.symm.trans hbusy
    have hbuf_s : HasBuffer s.cur a' len' := h.cur ▸ hbuf'
    obtain ⟨rfl, rfl⟩ := hbuf.unique hbuf_s
    have hbefore : bufferError s a' len' = none ∧ s.seq.blk < blockCount len' := by
      rcases hs hbusy_s a' len' hbuf with hseq | ⟨herr, hblk, -⟩
      · rw [hseq]
        exact hchecked hseq
      · exact ⟨herr, hblk⟩
    have hnr : 0 < 4 * s.nr := Nat.mul_pos (by decide) (one_le_nr s)
    refine .inr ⟨(h.bufferError a' len').trans hbefore.1, ?_⟩
    have hin := hnext.inside hnr hbefore.2
    exact ⟨hin.1, h.nr ▸ hin.2⟩

/-- Settles O50: what a step can do (`progress_of_step`) keeps each part of the invariant. -/
theorem everyStepKeepsTheInvariant : Obligations.EveryStepKeepsTheInvariant := by
  intro s t hinv hstep
  have hprogress := progress_of_step hstep
  have hkept := hprogress.kept
  obtain ⟨hparams, hstored, hstatus, hseq⟩ := inv_iff.mp hinv
  exact inv_iff.mpr ⟨hkept.params ▸ hparams, hkept.stored hstored, hkept.status hstatus, hprogress.seqInPlace hseq⟩

/-- Settles O54: every kind of progress a step can make keeps the parameters. -/
theorem parametersNeverChange : Obligations.ParametersNeverChange :=
  fun _ _ hstep => (progress_of_step hstep).kept.params

end Sys2Proof.Machine

/-! What an operation inside a command leaves alone: the session, and SEQ. From it follow the frame of W and NK, and
that a command run one micro-op a step is the command run as one step. -/

namespace Sys2Proof.Machine

/-! The session of a running command. -/

/-- What nothing inside a command changes: the context without CV (10_state.md R25), the phase, CUR, the parameters and
the host's script. -/
structure SameSession (s t : State) : Prop where
  ctxValid : t.ctxValid = s.ctxValid
  nk : t.nk = s.nk
  w : t.w = s.w
  phase : t.phase = s.phase
  cur : t.cur = s.cur
  params : t.params = s.params
  inputs : t.inputs = s.inputs

theorem SameSession.refl (s : State) : SameSession s s := ⟨rfl, rfl, rfl, rfl, rfl, rfl, rfl⟩

theorem SameSession.trans {s t u : State} (h : SameSession s t) (k : SameSession t u) : SameSession s u :=
  ⟨k.ctxValid.trans h.ctxValid, k.nk.trans h.nk, k.w.trans h.w, k.phase.trans h.phase, k.cur.trans h.cur,
    k.params.trans h.params, k.inputs.trans h.inputs⟩

theorem SameSession.nr {s t : State} (h : SameSession s t) : t.nr = s.nr := congrArg KeySize.rounds h.nk

theorem SameSession.bufferError {s t : State} (h : SameSession s t) (a len : Word32) :
    Machine.bufferError t a len = Machine.bufferError s a len :=
  bufferError_congr h.ctxValid h.params a len

theorem sameSession_withMat (s : State) (b : Block) : SameSession s (s.withMat b) :=
  ⟨rfl, rfl, rfl, rfl, rfl, rfl, rfl⟩
theorem sameSession_withSave (s : State) (b : Block) : SameSession s (s.withSave b) :=
  ⟨rfl, rfl, rfl, rfl, rfl, rfl, rfl⟩
theorem sameSession_withCv (s : State) (b : Block) : SameSession s (s.withCv b) :=
  ⟨rfl, rfl, rfl, rfl, rfl, rfl, rfl⟩
theorem sameSession_withMem (s : State) (m : Memory) : SameSession s (s.withMem m) :=
  ⟨rfl, rfl, rfl, rfl, rfl, rfl, rfl⟩
theorem sameSession_withSeq (s : State) (p : SeqPos) : SameSession s (s.withSeq p) :=
  ⟨rfl, rfl, rfl, rfl, rfl, rfl, rfl⟩

/-! Operations that keep the session and pass SEQ by. -/

/-- An operation inside a command: it keeps the session, and neither reads nor writes SEQ. -/
structure InCommand (f : State → Result) : Prop where
  session : ∀ {s t}, f s = .next t → SameSession s t
  commutes : ∀ s p, f (s.withSeq p) = andThen (f s) fun t => .next (t.withSeq p)

namespace InCommand

theorem seq_eq {f : State → Result} (hf : InCommand f) {s t : State} (h : f s = .next t) : t.seq = s.seq := by
  have hself : f s = andThen (f s) fun t => .next (t.withSeq s.seq) := hf.commutes s s.seq
  rw [h] at hself
  have ht : t = t.withSeq s.seq := Host.Outcome.next.inj hself
  exact (congrArg State.seq ht :)

theorem andThen {f g : State → Result} (hf : InCommand f) (hg : InCommand g) :
    InCommand fun s => Machine.andThen (f s) g where
  session h := by
    obtain ⟨u, hu, ht⟩ := andThen_eq_next.mp h
    exact (hf.session hu).trans (hg.session ht)
  commutes s p := by
    simp only [hf.commutes, andThen_assoc, andThen_next, hg.commutes]

/-- Moving SEQ before an operation is moving it afterwards, whatever follows. -/
theorem andThen_withSeq {f : State → Result} (hf : InCommand f) (s : State) (p : SeqPos) (g : State → Result) :
    Machine.andThen (f (s.withSeq p)) g = Machine.andThen (f s) fun t => g (t.withSeq p) := by
  simp only [hf.commutes, andThen_assoc, andThen_next]

/-- An update of the registers. -/
theorem next {g : State → State} (hsession : ∀ s, SameSession s (g s))
    (hcommutes : ∀ s p, g (s.withSeq p) = (g s).withSeq p) : InCommand fun s => .next (g s) where
  session h := by
    cases h
    exact hsession _
  commutes s p := congrArg Host.Outcome.next (hcommutes s p)

theorem readThen (n x : Nat) {g : Vector Byte n → State → State} (hsession : ∀ v s, SameSession s (g v s))
    (hcommutes : ∀ v s p, g v (s.withSeq p) = (g v s).withSeq p) :
    InCommand fun s => Machine.readThen n x s fun v => .next (g v s) where
  session h := by
    obtain ⟨-, ht⟩ := readThen_eq_next.mp h
    cases ht
    exact hsession _ _
  commutes s p := by
    simp only [Machine.readThen, State.withSeq_params, State.withSeq_mem, hcommutes]
    cases s.params.refusedAt x n <;> rfl

theorem writeAt {n : Nat} (x : Nat) {v : State → Vector Byte n} (hcommutes : ∀ s p, v (s.withSeq p) = v s) :
    InCommand fun s => Machine.writeAt (v s) x s where
  session h := by
    obtain ⟨-, rfl⟩ := writeAt_eq_next.mp h
    exact sameSession_withMem _ _
  commutes s p := by
    simp only [Machine.writeAt, State.withSeq_params, hcommutes]
    cases s.params.refusedAt x n <;> rfl

theorem setMat (g : State → Block) (hcommutes : ∀ s p, g (s.withSeq p) = g s) :
    InCommand fun s => .next (s.withMat (g s)) :=
  next (fun _ => sameSession_withMat _ _) fun s p => by rw [hcommutes]; rfl

theorem encLoad (x : Nat) : InCommand (Machine.encLoad x) :=
  readThen 16 x (g := fun p s => s.withMat (Block.xor p s.cv)) (fun _ _ => sameSession_withMat _ _) fun _ _ _ => rfl

theorem decLoad (x : Nat) : InCommand (Machine.decLoad x) :=
  readThen 16 x (g := fun c s => (s.withSave c).withMat c)
    (fun _ _ => (sameSession_withSave _ _).trans (sameSession_withMat _ _)) fun _ _ _ => rfl

theorem encStore (x : Nat) : InCommand (Machine.encStore x) :=
  (writeAt x (v := State.mat) fun _ _ => rfl).andThen
    (next (g := fun t => t.withCv t.mat) (fun _ => sameSession_withCv _ _) fun _ _ => rfl)

theorem decStore (x : Nat) : InCommand (Machine.decStore x) :=
  (setMat (fun s => Block.xor s.mat s.cv) fun _ _ => rfl).andThen <|
    (writeAt x (v := State.mat) fun _ _ => rfl).andThen
      (next (g := fun t => t.withCv t.save) (fun _ => sameSession_withCv _ _) fun _ _ => rfl)

theorem encBlock (x : Nat) : InCommand (Machine.encBlock x) :=
  (encLoad x).andThen ((setMat (fun t => cipher t.w t.nr t.mat) fun _ _ => rfl).andThen (encStore x))

theorem decBlock (x : Nat) : InCommand (Machine.decBlock x) :=
  (decLoad x).andThen ((setMat (fun t => invCipher t.w t.nr t.mat) fun _ _ => rfl).andThen (decStore x))

theorem execArk (r : BitVec 4) : InCommand (Machine.execArk r) where
  session h := by
    unfold Machine.execArk at h
    split at h <;> cases h
    exact sameSession_withMat _ _
  commutes s p := by
    change (if r.toNat ≤ s.nr then _ else _) = Machine.andThen (if r.toNat ≤ s.nr then _ else _) _
    split <;> rfl

/-- ARK and the six plain micro-ops (30_encoding.md R81). -/
theorem exec_microOp {i : Instr} (hi : (∃ r, i = .ark r) ∨ i ∈ [Instr.sb, .sr, .mc, .isb, .isr, .imc]) :
    InCommand (exec i) := by
  rcases hi with ⟨r, rfl⟩ | hplain
  · exact execArk r
  · fin_cases hplain <;> exact setMat _ fun _ _ => rfl

theorem runMicroOp (u : Byte) : InCommand (Machine.runMicroOp u) := by
  unfold Machine.runMicroOp
  split
  · next i hi => exact exec_microOp (decodeMicroOp_cases hi)
  · exact ⟨nofun, fun _ _ => rfl⟩

theorem runMicroOps (us : List Byte) : InCommand (Machine.runMicroOps us) := by
  induction us with
  | nil => exact next SameSession.refl fun _ _ => rfl
  | cons u us ih => exact (runMicroOp u).andThen ih

end InCommand

/-! The response of ENC and DEC: it leaves the session and the host's script. -/

@[simp] theorem finishBlocks_ctxValid (n : Nat) (s : State) : (finishBlocks n s).ctxValid = s.ctxValid := by
  cases n <;> rfl
@[simp] theorem finishBlocks_w (n : Nat) (s : State) : (finishBlocks n s).w = s.w := by cases n <;> rfl
@[simp] theorem finishBlocks_nk (n : Nat) (s : State) : (finishBlocks n s).nk = s.nk := by cases n <;> rfl
@[simp] theorem finishBlocks_inputs (n : Nat) (s : State) : (finishBlocks n s).inputs = s.inputs := by cases n <;> rfl

/-! W and NK (10_state.md R25). -/

/-- ENC and DEC: an error ends the session, and the blocks keep it. -/
theorem bufferCommand_keeps_schedule {f : Nat → State → Result} (hf : ∀ x, InCommand (f x)) {a len : Word32}
    {s t : State} (h : bufferCommand f a len s = .next t) (hvalid : t.ctxValid = true) :
    s.ctxValid = true ∧ t.w = s.w ∧ t.nk = s.nk := by
  unfold bufferCommand at h
  split at h
  · cases h
    cases hvalid
  · obtain ⟨u, hu, ht⟩ := andThen_eq_next.mp h
    have hsu : SameSession s u := eachBlock_keeps (P := SameSession s)
      (fun v p hv => hv.trans (sameSession_withSeq v p))
      (fun x v w hw hv => hv.trans ((hf x).session hw)) _ _ _ _ hu (SameSession.refl s)
    obtain rfl := Host.Outcome.next.inj ht
    rw [finishBlocks_ctxValid, hsu.ctxValid] at hvalid
    rw [finishBlocks_w, finishBlocks_nk]
    exact ⟨hvalid, hsu.w, hsu.nk⟩

/-- Settles O39: ENC and DEC either end the session or keep it, and a micro-op writes S only. -/
theorem scheduleAndKeySizeStayWithTheContext : Obligations.ScheduleAndKeySizeStayWithTheContext := by
  intro i s t hinit h hvalid
  have of_microOp (hi : (∃ r, i = .ark r) ∨ i ∈ [Instr.sb, .sr, .mc, .isb, .isr, .imc]) :
      s.ctxValid = true ∧ t.w = s.w ∧ t.nk = s.nk := by
    have hst := (InCommand.exec_microOp hi).session h
    exact ⟨hst.ctxValid.symm.trans hvalid, hst.w, hst.nk⟩
  cases i with
  | init ksz a b => exact absurd rfl (hinit ksz a b)
  | enc a len => exact bufferCommand_keeps_schedule InCommand.encBlock h hvalid
  | dec a len => exact bufferCommand_keeps_schedule InCommand.decBlock h hvalid
  | ark r => exact of_microOp (.inl ⟨r, rfl⟩)
  | sb | sr | mc | isb | isr | imc => exact of_microOp (.inr (by simp))

end Sys2Proof.Machine

namespace Sys2Proof.Machine

/-! The state after reset (10_state.md R37). -/

/-- Settles O51: the default parameters are legal, memory lists nothing, and an idle core has no SEQ to place. -/
theorem resetHasTheInvariant : Obligations.ResetHasTheInvariant :=
  inv_iff.mpr ⟨by decide, ⟨rfl, nofun⟩, Nat.zero_le 5, nofun⟩

/-- Settles O52. -/
theorem resetState : Obligations.ResetState := ⟨rfl, rfl⟩

end Sys2Proof.Machine

/-! The microprograms run the block pipelines (43_forward_round.md R145, 44_inverse_round.md R165). -/

namespace Sys2Proof.Machine

/-! One micro-op byte. -/

theorem rounds_le (nk : KeySize) : nk.rounds ≤ 14 := by cases nk <;> decide

theorem decodeMicroOp_arkCode {r : Nat} (h : r < 15) :
    decodeMicroOp (arkCode r) = .instr (.ark (BitVec.ofNat 4 r)) := by
  interval_cases r <;> rfl

theorem runMicroOp_ark {r : Nat} {s : State} (h : r ≤ s.nr) (b : Block) :
    runMicroOp (arkCode r) (s.withMat b) = .next (s.withMat (addRoundKey s.w r b)) := by
  have hr : r < 15 := Nat.lt_succ_of_le (h.trans (rounds_le s.nk))
  have hval : (BitVec.ofNat 4 r).toNat = r := Nat.mod_eq_of_lt (by omega)
  simp only [runMicroOp, decodeMicroOp_arkCode hr, exec, execArk, hval]
  exact if_pos h

section Plain

variable (s : State) (b : Block)

@[simp] theorem runMicroOp_sb : runMicroOp sbCode (s.withMat b) = .next (s.withMat (subBytes b)) := rfl
@[simp] theorem runMicroOp_sr : runMicroOp srCode (s.withMat b) = .next (s.withMat (shiftRows b)) := rfl
@[simp] theorem runMicroOp_mc : runMicroOp mcCode (s.withMat b) = .next (s.withMat (mixColumns b)) := rfl
@[simp] theorem runMicroOp_isb : runMicroOp isbCode (s.withMat b) = .next (s.withMat (invSubBytes b)) := rfl
@[simp] theorem runMicroOp_isr : runMicroOp isrCode (s.withMat b) = .next (s.withMat (invShiftRows b)) := rfl
@[simp] theorem runMicroOp_imc : runMicroOp imcCode (s.withMat b) = .next (s.withMat (invMixColumns b)) := rfl

end Plain

/-- Whether a micro-op has a meaning depends on the number of rounds only (30_encoding.md R82). -/
theorem runMicroOp_runs_of_nr {u : Byte} {s s' t : State} (h : runMicroOp u s = .next t) (hnr : s'.nr = s.nr) :
    ∃ t', runMicroOp u s' = .next t' := by
  unfold runMicroOp at h ⊢
  split at h
  · next i hi =>
    rcases decodeMicroOp_cases hi with ⟨r, rfl⟩ | hplain
    · change execArk r s = .next t at h
      unfold execArk at h
      split at h
      · next hr => exact ⟨_, if_pos (hnr ▸ hr)⟩
      · cases h
    · fin_cases hplain <;> exact ⟨_, rfl⟩
  · cases h

/-! A list of micro-ops. -/

theorem runMicroOps_append (us vs : List Byte) (s : State) :
    runMicroOps (us ++ vs) s = andThen (runMicroOps us s) (runMicroOps vs) := by
  induction us generalizing s with
  | nil => rfl
  | cons u us ih =>
    have ih' : runMicroOps (us ++ vs) = fun t => andThen (runMicroOps us t) (runMicroOps vs) := funext ih
    simp only [List.cons_append, runMicroOps, andThen_assoc, ih']

/-- Where a list of micro-ops runs to its end, each of them has a meaning. -/
theorem runMicroOp_runs_of_mem {us : List Byte} {u : Byte} {s t : State} (h : runMicroOps us s = .next t)
    (hu : u ∈ us) : ∃ t', runMicroOp u s = .next t' := by
  induction us generalizing s with
  | nil => cases hu
  | cons v us ih =>
    obtain ⟨w, hw, ht⟩ := andThen_eq_next.mp h
    rcases List.mem_cons.mp hu with rfl | hus
    · exact ⟨w, hw⟩
    · obtain ⟨t', ht'⟩ := ih ht hus
      exact runMicroOp_runs_of_nr ht' ((InCommand.runMicroOp v).session hw).nr.symm

/-- The middle rounds of R144 from round `r` on. -/
theorem runMicroOps_forwardRounds {s : State} (n r : Nat) (b : Block) (h : r + n ≤ s.nr + 1) :
    runMicroOps ((List.range' r n).flatMap fun r => [sbCode, srCode, mcCode, arkCode r]) (s.withMat b) =
      .next (s.withMat (forwardRounds s.w n r b)) := by
  induction n generalizing r b with
  | zero => rfl
  | succ n ih =>
    have hr : r ≤ s.nr := by omega
    have hround : runMicroOps [sbCode, srCode, mcCode, arkCode r] (s.withMat b) =
        .next (s.withMat (forwardRound s.w r b)) := by simp [runMicroOps, runMicroOp_ark hr, forwardRound]
    rw [List.range'_succ, List.flatMap_cons, runMicroOps_append, hround, andThen_next, ih _ _ (by omega), forwardRounds]

/-- The middle steps of R164 from round `n` down. -/
theorem runMicroOps_inverseRounds {s : State} (n : Nat) (b : Block) (h : n ≤ s.nr) :
    runMicroOps ((List.range' 1 n).reverse.flatMap fun r => [isrCode, isbCode, arkCode r, imcCode]) (s.withMat b) =
      .next (s.withMat (inverseRounds s.w n b)) := by
  induction n generalizing b with
  | zero => rfl
  | succ n ih =>
    have hround : runMicroOps [isrCode, isbCode, arkCode (n + 1), imcCode] (s.withMat b) =
        .next (s.withMat (inverseRound s.w (n + 1) b)) := by simp [runMicroOps, runMicroOp_ark h, inverseRound]
    rw [List.range'_1_concat, List.reverse_append, List.reverse_singleton, List.singleton_append, List.flatMap_cons,
      Nat.add_comm 1 n, runMicroOps_append, hround, andThen_next, ih _ (by omega), inverseRounds]

/-- `FWD(NR)` computes Cipher on S and changes nothing else (43_forward_round.md R145). -/
theorem runMicroOps_fwdProgram (s : State) :
    runMicroOps (fwdProgram s.nr) s = .next (s.withMat (cipher s.w s.nr s.mat)) := by
  have hnr := one_le_nr s
  change runMicroOps (fwdProgram s.nr) (s.withMat s.mat) = _
  rw [fwdProgram, List.cons_append, runMicroOps, runMicroOp_ark (Nat.zero_le _), andThen_next, runMicroOps_append,
    runMicroOps_forwardRounds _ _ _ (by omega)]
  simp [runMicroOps, runMicroOp_ark, cipher]

/-- `INV(NR)` computes InvCipher on S and changes nothing else (44_inverse_round.md R165). -/
theorem runMicroOps_invProgram (s : State) :
    runMicroOps (invProgram s.nr) s = .next (s.withMat (invCipher s.w s.nr s.mat)) := by
  change runMicroOps (invProgram s.nr) (s.withMat s.mat) = _
  rw [invProgram, List.cons_append, runMicroOps, runMicroOp_ark (Nat.le_refl _), andThen_next, runMicroOps_append,
    runMicroOps_inverseRounds _ _ (Nat.sub_le _ _)]
  simp [runMicroOps, runMicroOp_ark, invCipher]

end Sys2Proof.Machine

/-! One micro-op of a block (10_state.md R33; log 1). -/

namespace Sys2Proof.Machine

/-- What comes before a micro-op: the load of the block, if the micro-op is the block's first. -/
def loadIfFirst (load : Nat → State → Result) (a : Word32) (s : State) : Result :=
  if s.seq.step = 0 then load (blockAddr a s.seq.blk) s else .next s

theorem loadIfFirst_keeps {load : Nat → State → Result} (hload : ∀ x, InCommand (load x)) {a : Word32} {s t : State}
    (h : loadIfFirst load a s = .next t) : SameSession s t ∧ t.seq = s.seq := by
  unfold loadIfFirst at h
  split at h
  · exact ⟨(hload _).session h, (hload _).seq_eq h⟩
  · cases h
    exact ⟨SameSession.refl s, rfl⟩

/-- A move with SEQ inside the microprogram. -/
theorem microMove_eq {load store : Nat → State → Result} {program : List Byte} {a len : Word32} {s : State}
    (h : s.seq.step < program.length) :
    microMove load store program a len s =
      andThen (loadIfFirst load a s) fun t => andThen (runMicroOp program[s.seq.step] t) fun v =>
        if v.seq.step + 1 < program.length then .next (v.withSeq ⟨v.seq.blk, v.seq.step + 1⟩)
        else endBlock store a len v := by
  rw [microMove, List.getElem?_eq_getElem h]
  rfl

end Sys2Proof.Machine

/-! The sequencer stays in its program: the only stop of a command is an access that the memory does not answer
(20_memory.md R52). -/

namespace Sys2Proof.Machine

/-- No stop but an unanswered access. -/
def OnlyUnanswered (r : Result) : Prop := r ≠ .fault .seqOutOfProgram ∧ ∀ e, r ≠ .refused e

namespace OnlyUnanswered

theorem next (s : State) : OnlyUnanswered (.next s) := ⟨nofun, nofun⟩

theorem notAdmitted (x : Nat) : OnlyUnanswered (.fault (.notAdmitted x)) := ⟨nofun, nofun⟩

theorem andThen {r : Result} {f : State → Result} (hr : OnlyUnanswered r)
    (hf : ∀ t, r = .next t → OnlyUnanswered (f t)) : OnlyUnanswered (Machine.andThen r f) := by
  cases r with
  | next t => exact hf t rfl
  | fault e => exact ⟨fun h => hr.1 (by cases h; rfl), nofun⟩
  | refused e => exact absurd rfl (hr.2 e)

theorem readThen {n : Nat} (x : Nat) (s : State) {f : Vector Byte n → Result} (hf : ∀ v, OnlyUnanswered (f v)) :
    OnlyUnanswered (Machine.readThen n x s f) := by
  unfold Machine.readThen
  split
  · exact notAdmitted _
  · exact hf _

theorem writeAt {n : Nat} (v : Vector Byte n) (x : Nat) (s : State) : OnlyUnanswered (Machine.writeAt v x s) := by
  unfold Machine.writeAt
  split
  · exact notAdmitted _
  · exact next _

/-! The parts of a block (45_cbc_commands.md R184, R185). -/

theorem encLoad (x : Nat) (s : State) : OnlyUnanswered (Machine.encLoad x s) := readThen x s fun _ => next _
theorem decLoad (x : Nat) (s : State) : OnlyUnanswered (Machine.decLoad x s) := readThen x s fun _ => next _
theorem encStore (x : Nat) (s : State) : OnlyUnanswered (Machine.encStore x s) :=
  (writeAt _ x s).andThen fun _ _ => next _
theorem decStore (x : Nat) (s : State) : OnlyUnanswered (Machine.decStore x s) :=
  (writeAt _ x _).andThen fun _ _ => next _
theorem encBlock (x : Nat) (s : State) : OnlyUnanswered (Machine.encBlock x s) :=
  (encLoad x s).andThen fun _ _ => encStore x _
theorem decBlock (x : Nat) (s : State) : OnlyUnanswered (Machine.decBlock x s) :=
  (decLoad x s).andThen fun _ _ => decStore x _

/-! Whole commands. -/

theorem eachBlock {f : Nat → State → Result} (hf : ∀ x s, OnlyUnanswered (f x s)) (a : Word32) (n j : Nat) (s : State) :
    OnlyUnanswered (Machine.eachBlock f a n j s) := by
  induction n generalizing j s with
  | zero => exact next s
  | succ n ih => exact (hf _ s).andThen fun _ _ => ih _ _

theorem bufferCommand {f : Nat → State → Result} (hf : ∀ x s, OnlyUnanswered (f x s)) (a len : Word32) (s : State) :
    OnlyUnanswered (Machine.bufferCommand f a len s) := by
  unfold Machine.bufferCommand
  split
  · exact next _
  · exact (eachBlock hf a _ _ s).andThen fun _ _ => next _

theorem execInit (ksz : BitVec 2) (a b : Word32) (s : State) : OnlyUnanswered (Machine.execInit ksz a b s) := by
  unfold Machine.execInit
  split
  · exact next _
  · split
    · exact readThen _ s fun _ => readThen _ s fun _ => next _
    · exact next _

theorem runCommand (d : Descriptor) (s : State) : OnlyUnanswered (Machine.runCommand d s) := by
  unfold Machine.runCommand
  rcases decodeCommand_cases d with ⟨ksz, a, b, hd⟩ | ⟨a, len, hd⟩ | ⟨a, len, hd⟩ | ⟨r, hd⟩ <;> rw [hd]
  · exact execInit ksz a b _
  · exact bufferCommand encBlock a len _
  · exact bufferCommand decBlock a len _
  · exact next _

/-! The core's moves (10_state.md R33). -/

section BufferMove

variable {load store : Nat → State → Result} {program : List Byte} {a len : Word32} {s w : State}

theorem endBlock (hstore : ∀ x s, OnlyUnanswered (store x s)) : OnlyUnanswered (Machine.endBlock store a len s) := by
  refine (hstore _ s).andThen fun t _ => ?_
  split <;> exact next _

/-- With SEQ inside a microprogram that the core can run, its micro-op is there and has a meaning. -/
theorem microMove (hload : ∀ x s, OnlyUnanswered (load x s)) (hsession : ∀ x, InCommand (load x))
    (hstore : ∀ x s, OnlyUnanswered (store x s)) (hrun : runMicroOps program s = .next w)
    (hseq : s.seq.step < program.length) : OnlyUnanswered (Machine.microMove load store program a len s) := by
  rw [microMove_eq hseq]
  refine andThen ?_ fun t ht => andThen ?_ fun v _ => ?_
  · unfold loadIfFirst
    split
    · exact hload _ s
    · exact next s
  · obtain ⟨hst, -⟩ := loadIfFirst_keeps hsession ht
    obtain ⟨_, hany⟩ := runMicroOp_runs_of_mem hrun (List.getElem_mem hseq)
    obtain ⟨v, hv⟩ := runMicroOp_runs_of_nr hany hst.nr
    exact hv ▸ next v
  · split
    · exact next _
    · exact endBlock hstore

theorem bufferMove (hload : ∀ x s, OnlyUnanswered (load x s)) (hsession : ∀ x, InCommand (load x))
    (hstore : ∀ x s, OnlyUnanswered (store x s)) (hrun : runMicroOps program s = .next w)
    (hseq : s.seq.step < program.length) : OnlyUnanswered (Machine.bufferMove load store program a len s) := by
  have hmove := microMove (a := a) (len := len) hload hsession hstore hrun hseq
  unfold Machine.bufferMove
  split
  · split
    · exact next _
    · split
      · exact next _
      · exact hmove
  · exact hmove

end BufferMove

theorem coreMove {s : State} (hbusy : s.phase = .busy) (hplace : SeqInPlace s) :
    OnlyUnanswered (Machine.coreMove s) := by
  have hinside {a len : Word32} (hbuf : HasBuffer s.cur a len) : s.seq.step < 4 * s.nr := by
    rcases hplace hbusy a len hbuf with hseq | ⟨-, -, hstep⟩
    · rw [hseq]
      exact Nat.mul_pos (by decide) (one_le_nr s)
    · exact hstep
  unfold Machine.coreMove
  rcases decodeCommand_cases s.cur with ⟨ksz, a, b, hd⟩ | ⟨a, len, hd⟩ | ⟨a, len, hd⟩ | ⟨r, hd⟩ <;> rw [hd]
  · exact execInit ksz a b s
  · exact bufferMove encLoad InCommand.encLoad encStore (runMicroOps_fwdProgram s)
      (length_fwdProgram (one_le_nr s) ▸ hinside (.inl hd))
  · exact bufferMove decLoad InCommand.decLoad decStore (runMicroOps_invProgram s)
      (length_invProgram (one_le_nr s) ▸ hinside (.inr hd))
  · exact next _

theorem busyTurn {s : State} (hbusy : s.phase = .busy) (hplace : SeqInPlace s) :
    OnlyUnanswered (Machine.busyTurn s) := by
  rcases busyTurn_cases s with ⟨rest, -, hb⟩ | ⟨a, v, rest, -, -, hb⟩ | ⟨a, rest, -, -, hb⟩ | ⟨rest, -, hb⟩ | hb <;>
    rw [hb]
  · exact next _
  · exact writeAt _ _ _
  · exact readThen _ _ fun _ => next _
  · exact coreMove hbusy (hplace.of_quiet (quiet_withInputs s rest))
  · exact coreMove hbusy hplace

end OnlyUnanswered

/-- A micro-op makes no access and has no place in a program: it is no fault. -/
theorem runMicroOp_ne_fault (u : Byte) (s : State) (e : Fault) : runMicroOp u s ≠ .fault e := by
  unfold runMicroOp
  split
  · next i hi =>
    rcases decodeMicroOp_cases hi with ⟨r, rfl⟩ | hplain
    · change execArk r s ≠ .fault e
      unfold execArk
      split <;> nofun
    · fin_cases hplain <;> nofun
  · nofun

/-- An idle core may refuse a micro-op that a test supplies; everything else stops at an unanswered access only. -/
theorem idleTurn_ne_seqOutOfProgram (s : State) : idleTurn s ≠ .fault .seqOutOfProgram := by
  unfold idleTurn
  split
  · nofun
  · exact (OnlyUnanswered.runCommand _ _).1
  · nofun
  · exact (OnlyUnanswered.writeAt _ _ _).1
  · exact (OnlyUnanswered.readThen _ _ fun _ => OnlyUnanswered.next _).1
  · nofun
  · nofun
  · exact runMicroOp_ne_fault _ _ _

/-- Settles O53: the invariant puts SEQ inside the microprogram, and every byte of a microprogram has a meaning. -/
theorem sequencerStaysInItsProgram : Obligations.SequencerStaysInItsProgram := by
  intro s hinv
  obtain ⟨-, -, -, hplace⟩ := inv_iff.mp hinv
  rcases step_cases s with ⟨hidle, hs⟩ | ⟨hbusy, hs⟩ <;> rw [hs]
  · exact ⟨idleTurn_ne_seqOutOfProgram s, fun hbusy => by rw [hidle] at hbusy; cases hbusy⟩
  · exact (OnlyUnanswered.busyTurn hbusy hplace).imp_right fun hnever _ => hnever

end Sys2Proof.Machine

/-! A command run micro-op by micro-op is the command run as one step (10_state.md R33, 30_encoding.md R80; log 1). -/

namespace Sys2Proof.Machine

/-! Runs of the machine. -/

/-- `k` steps from `s`. -/
abbrev run (k : Nat) (s : State) : Result := Host.Core.run Sys2Proof.core k s

theorem run_succ (k : Nat) (s : State) : run (k + 1) s = andThen (step s) (run k) := by
  have hcore : Sys2Proof.core.step s = step s := rfl
  simp only [run, Host.Core.run, hcore]
  cases step s <;> rfl

/-- Continuing a result depends on its next state only. -/
theorem andThen_congr {r : Result} {f g : State → Result} (h : ∀ t, r = .next t → f t = g t) :
    andThen r f = andThen r g := by
  cases r with
  | next t => exact h t rfl
  | fault e => rfl
  | refused e => rfl

/-- An idle core whose host does nothing stays as it is (60_exceptions.md R237). -/
theorem run_of_idle (k : Nat) {s : State} (hidle : s.phase = .idle) (hinputs : s.inputs = []) : run k s = .next s := by
  induction k with
  | zero => rfl
  | succ k ih =>
    have hstep : step s = .next s := by simp [step, takeTurn, idleTurn, hidle, hinputs]
    rw [run_succ, hstep, andThen_next, ih]

/-- A busy core whose host does nothing moves. -/
theorem step_of_busy {s : State} (hbusy : s.phase = .busy) (hinputs : s.inputs = []) : step s = coreMove s := by
  simp [step, takeTurn, busyTurn, hbusy, hinputs]

/-- A result that is a stop or an idle core stays. -/
theorem andThen_run_of_idle (k : Nat) {r : Result} (h : ∀ t, r = .next t → t.phase = .idle ∧ t.inputs = []) :
    andThen r (run k) = r := by
  cases r with
  | next t => exact run_of_idle k (h t rfl).1 (h t rfl).2
  | fault e => rfl
  | refused e => rfl

/-! The blocks of ENC and DEC. -/

/-- The loop over at least one block does not depend on where SEQ was. -/
theorem eachBlock_withSeq {f : Nat → State → Result} (hf : ∀ x, InCommand (f x)) (a : Word32) (n j : Nat) (s : State)
    (p : SeqPos) :
    eachBlock f a (n + 1) j (s.withSeq p) = eachBlock f a (n + 1) j s := by
  simp only [eachBlock, (hf _).andThen_withSeq]
  rfl

/-- The end of a block at the position `p`. -/
theorem endBlock_withSeq {store : Nat → State → Result} (hstore : ∀ x, InCommand (store x)) (a len : Word32) (s : State)
    (p : SeqPos) :
    endBlock store a len (s.withSeq p) = andThen (store (blockAddr a p.blk) s) fun t =>
      if p.blk + 1 < blockCount len then .next (t.withSeq ⟨p.blk + 1, 0⟩)
      else .next (finishBlocks (blockCount len) (t.withSeq p)) :=
  (hstore _).andThen_withSeq s p _

section Blocks

/-- What a block step is made of: it loads the block, runs the microprogram and stores the block. -/
structure BlockStep (s₀ : State) (f load store : Nat → State → Result) (program : List Byte) : Prop where
  loads : ∀ x, InCommand (load x)
  stores : ∀ x, InCommand (store x)
  steps : ∀ x, InCommand (f x)
  length : program.length = 4 * s₀.nr
  eq : ∀ x s, SameSession s₀ s → f x s = andThen (load x s) fun t => andThen (runMicroOps program t) (store x)

variable {s₀ : State} {f load store : Nat → State → Result} {program : List Byte} {a len : Word32}
  (hb : BlockStep s₀ f load store program)
  (hmove : ∀ s, SameSession s₀ s → step s = microMove load store program a len s)

include hb hmove

/-- One micro-op, with its place written out from the state before it; the block's last leads to the block's end. -/
theorem step_of_microOp {s : State} (hs : SameSession s₀ s) (h : s.seq.step < program.length) :
    step s = andThen (loadIfFirst load a s) fun t => andThen (runMicroOp program[s.seq.step] t) fun v =>
      if s.seq.step + 1 < program.length then .next (v.withSeq ⟨s.seq.blk, s.seq.step + 1⟩)
      else endBlock store a len (v.withSeq ⟨s.seq.blk, program.length - 1⟩) := by
  rw [hmove s hs, microMove_eq h]
  refine andThen_congr fun t ht => andThen_congr fun v hv => ?_
  have hseq : v.seq = s.seq := ((InCommand.runMicroOp _).seq_eq hv).trans (loadIfFirst_keeps hb.loads ht).2
  rw [← hseq] at h ⊢
  split
  · rfl
  · next hend =>
    have hlast : program.length - 1 = v.seq.step := by omega
    rw [hlast]
    rfl

/-- The rest of a block, `us` the micro-ops from SEQ on: the load if SEQ is at the block's start, the micro-ops, and the
block's end. -/
theorem run_restOfBlock (m : Nat) {us : List Byte} (hus : us ≠ []) {s : State} (hs : SameSession s₀ s)
    (hrest : program.drop s.seq.step = us) :
    run (us.length + m) s =
      andThen (loadIfFirst load a s) fun t => andThen (runMicroOps us t) fun v =>
        andThen (endBlock store a len (v.withSeq ⟨s.seq.blk, program.length - 1⟩)) (run m) := by
  induction us generalizing s with
  | nil => exact absurd rfl hus
  | cons u us ih =>
    have hlt : s.seq.step < program.length := Nat.lt_of_not_le fun hge => hus (hrest ▸ List.drop_eq_nil_of_le hge)
    rw [List.drop_eq_getElem_cons hlt] at hrest
    obtain ⟨hu, hrest⟩ := List.cons.inj hrest
    have hlen : us.length = program.length - (s.seq.step + 1) := by rw [← hrest, List.length_drop]
    rw [List.length_cons, Nat.add_right_comm, run_succ, step_of_microOp hb hmove hs hlt, hu]
    simp only [andThen_assoc, runMicroOps]
    refine andThen_congr fun t ht => andThen_congr fun v hv => ?_
    have hsv : SameSession s₀ v :=
      (hs.trans (loadIfFirst_keeps hb.loads ht).1).trans ((InCommand.runMicroOp u).session hv)
    cases us with
    | nil =>
      rw [List.length_nil] at hlen ⊢
      rw [if_neg (by omega), runMicroOps, andThen_next, Nat.zero_add]
    | cons u' us =>
      have hnext : s.seq.step + 1 < program.length := by rw [List.length_cons] at hlen; omega
      have hgo := ih (List.cons_ne_nil u' us) (s := v.withSeq ⟨s.seq.blk, s.seq.step + 1⟩)
        (hsv.trans (sameSession_withSeq v _)) hrest
      rw [if_pos hnext, andThen_next, hgo]
      exact (InCommand.runMicroOps (u' :: us)).andThen_withSeq v _ _

/-- One whole block from its first micro-op: the block step, then the next block or the response. -/
theorem run_block (m : Nat) {s : State} (hs : SameSession s₀ s) {j : Nat} (hseq : s.seq = ⟨j, 0⟩) :
    run (program.length + m) s =
      andThen (f (blockAddr a j) s) fun t =>
        if j + 1 < blockCount len then run m (t.withSeq ⟨j + 1, 0⟩)
        else run m (finishBlocks (blockCount len) (t.withSeq ⟨j, lastStep t⟩)) := by
  have hne : program ≠ [] := List.ne_nil_of_length_pos (hb.length ▸ Nat.mul_pos (by decide) (one_le_nr s₀))
  have hload : loadIfFirst load a s = load (blockAddr a j) s := by rw [loadIfFirst, hseq]; rfl
  rw [run_restOfBlock hb hmove m hne hs (by rw [hseq]; rfl), hload, hseq, hb.eq _ s hs]
  simp only [andThen_assoc, endBlock_withSeq hb.stores]
  refine andThen_congr fun t ht => andThen_congr fun v hv => andThen_congr fun w hw => ?_
  have hw₀ : SameSession s₀ w :=
    ((hs.trans ((hb.loads _).session ht)).trans ((InCommand.runMicroOps _).session hv)).trans ((hb.stores _).session hw)
  have hlast : program.length - 1 = lastStep w := by rw [hb.length, lastStep, hw₀.nr]
  rw [hlast]
  split <;> rfl

/-- The remaining blocks from block `j`: the loop of the one-step command, then its response. -/
theorem run_blocks (hinputs : s₀.inputs = []) (m n : Nat) {j : Nat} {s : State}
    (hs : SameSession s₀ s) (hseq : s.seq = ⟨j, 0⟩) (hj : j + (n + 1) = blockCount len) :
    run ((n + 1) * program.length + m) s =
      andThen (eachBlock f a (n + 1) j s) fun t => .next (finishBlocks (blockCount len) t) := by
  induction n generalizing j s with
  | zero =>
    rw [Nat.zero_add, Nat.one_mul, run_block hb hmove m hs hseq, eachBlock, andThen_assoc]
    refine andThen_congr fun t ht => ?_
    have hend : (finishBlocks (blockCount len) (t.withSeq ⟨j, lastStep t⟩)).inputs = [] := by
      rw [finishBlocks_inputs, State.withSeq_inputs, ((hb.steps _).session ht).inputs, hs.inputs, hinputs]
    rw [if_neg (by omega), run_of_idle m (ended_finishBlocks _ _).idle hend]
    rfl
  | succ n ih =>
    rw [Nat.succ_mul (n + 1), Nat.add_right_comm, Nat.add_comm _ program.length, Nat.add_assoc,
      run_block hb hmove _ hs hseq, eachBlock, andThen_assoc]
    refine andThen_congr fun t ht => ?_
    rw [if_pos (by omega), ih ((hs.trans ((hb.steps _).session ht)).trans (sameSession_withSeq t _)) rfl (by omega),
      eachBlock_withSeq hb.steps, eachBlock_withSeq hb.steps]

end Blocks

/-! Whole commands. -/

/-- Once the checks of a command with blocks have passed, every move is one of the microprogram. -/
theorem bufferMove_of_checked {load store : Nat → State → Result} {program : List Byte} {a len : Word32} {s : State}
    (hchecks : bufferError s a len = none) (hblocks : blockCount len ≠ 0) :
    bufferMove load store program a len s = microMove load store program a len s := by
  simp [bufferMove, hchecks, hblocks]

/-- The micro-ops of a whole buffer are at most `3.5` a byte: 56 a block of 16 bytes. -/
theorem blockCount_mul_le (len : Word32) (nk : KeySize) : blockCount len * (4 * nk.rounds) ≤ 4 * len.toNat := by
  have hrounds : 4 * nk.rounds ≤ 64 := by have := rounds_le nk; omega
  calc blockCount len * (4 * nk.rounds)
    _ ≤ blockCount len * 64 := Nat.mul_le_mul_left _ hrounds
    _ ≤ 4 * len.toNat := by unfold blockCount; omega

/-- ENC or DEC from its issue on: the moves end in the result of the one-step command. -/
theorem run_bufferCommand {s₀ : State} {f load store : Nat → State → Result} {program : List Byte} {a len : Word32}
    (hb : BlockStep s₀ f load store program)
    (hmove : ∀ s, SameSession s₀ s → step s = bufferMove load store program a len s)
    (hinputs : s₀.inputs = []) (hseq : s₀.seq = ⟨0, 0⟩) {k : Nat} (hk : 4 * len.toNat ≤ k) :
    run (k + 1) s₀ = bufferCommand f a len s₀ := by
  have hfirst := hmove s₀ (SameSession.refl s₀)
  rw [bufferCommand]
  cases hchecks : bufferError s₀ a len with
  | some c =>
    have herror : step s₀ = .next (s₀.raiseError c) := by simp [hfirst, bufferMove, hseq, hchecks]
    rw [run_succ, herror]
    exact run_of_idle k rfl hinputs
  | none =>
    cases hblocks : blockCount len with
    | zero =>
      have hempty : step s₀ = .next (finishBlocks 0 s₀) := by simp [hfirst, bufferMove, hseq, hchecks, hblocks]
      rw [run_succ, hempty]
      exact run_of_idle k rfl hinputs
    | succ n =>
      have hmicro (s : State) (hs : SameSession s₀ s) : step s = microMove load store program a len s := by
        rw [hmove s hs, bufferMove_of_checked ((hs.bufferError a len).trans hchecks) (hblocks ▸ Nat.succ_ne_zero n)]
      have hlength : (n + 1) * program.length ≤ k := by
        rw [hb.length, ← hblocks]
        exact (blockCount_mul_le len s₀.nk).trans hk
      obtain ⟨m, rfl⟩ := Nat.exists_eq_add_of_le hlength
      rw [Nat.add_assoc, run_blocks hb hmicro hinputs (m + 1) n (SameSession.refl s₀) hseq (by omega), hblocks]

theorem blockStep_enc (s₀ : State) : BlockStep s₀ encBlock encLoad encStore (fwdProgram s₀.nr) where
  loads := InCommand.encLoad
  stores := InCommand.encStore
  steps := InCommand.encBlock
  length := length_fwdProgram (one_le_nr s₀)
  eq x s hs := andThen_congr fun t ht => by
    rw [← (hs.trans ((InCommand.encLoad x).session ht)).nr, runMicroOps_fwdProgram, andThen_next]

theorem blockStep_dec (s₀ : State) : BlockStep s₀ decBlock decLoad decStore (invProgram s₀.nr) where
  loads := InCommand.decLoad
  stores := InCommand.decStore
  steps := InCommand.decBlock
  length := length_invProgram (one_le_nr s₀)
  eq x s hs := andThen_congr fun t ht => by
    rw [← (hs.trans ((InCommand.decLoad x).session ht)).nr, runMicroOps_invProgram, andThen_next]

/-- INIT leaves the host's script. -/
theorem inputs_of_execInit {ksz : BitVec 2} {a b : Word32} {s t : State} (h : execInit ksz a b s = .next t) :
    t.inputs = s.inputs := by
  unfold execInit at h
  split at h
  · cases h
    rfl
  · split at h
    · obtain ⟨-, h⟩ := readThen_eq_next.mp h
      obtain ⟨-, h⟩ := readThen_eq_next.mp h
      cases h
      rfl
    · cases h
      rfl

/-- LEN of an ENC or DEC is its word B (30_encoding.md R72). -/
theorem HasBuffer.len_eq {d : Descriptor} {a len : Word32} (h : HasBuffer d a len) : len = d.b := by
  unfold HasBuffer decodeCommand at h
  rcases h with h | h <;> split_ifs at h <;> cases h <;> rfl

/-- From the issue of any command, the core's own moves end in the result of the one-step command. -/
theorem run_issued {s : State} (hinputs : s.inputs = []) (d : Descriptor) {k : Nat} (hk : 4 * d.b.toNat ≤ k) :
    run (k + 1) (s.issued d) = runCommand d s := by
  have hstep (t : State) (ht : SameSession (s.issued d) t) : step t = coreMove t :=
    step_of_busy ht.phase (ht.inputs.trans hinputs)
  rcases decodeCommand_cases d with ⟨ksz, a, b, hd⟩ | ⟨a, len, hd⟩ | ⟨a, len, hd⟩ | ⟨r, hd⟩
  · rw [run_succ, hstep _ (SameSession.refl _)]
    simp only [coreMove, runCommand, State.issued_cur, hd]
    exact andThen_run_of_idle k fun t ht => ⟨(ended_of_execInit ht).idle, (inputs_of_execInit ht).trans hinputs⟩
  · have hmove (t : State) (ht : SameSession (s.issued d) t) :
        step t = bufferMove encLoad encStore (fwdProgram (s.issued d).nr) a len t := by
      rw [hstep t ht, coreMove, ht.cur, ← ht.nr, State.issued_cur, hd]
    rw [runCommand, hd]
    exact run_bufferCommand (blockStep_enc _) hmove hinputs rfl (HasBuffer.len_eq (.inl hd) ▸ hk)
  · have hmove (t : State) (ht : SameSession (s.issued d) t) :
        step t = bufferMove decLoad decStore (invProgram (s.issued d).nr) a len t := by
      rw [hstep t ht, coreMove, ht.cur, ← ht.nr, State.issued_cur, hd]
    rw [runCommand, hd]
    exact run_bufferCommand (blockStep_dec _) hmove hinputs rfl (HasBuffer.len_eq (.inr hd) ▸ hk)
  · rw [run_succ, hstep _ (SameSession.refl _)]
    simp only [coreMove, runCommand, State.issued_cur, hd]
    exact run_of_idle k rfl hinputs

/-- Settles O49: one step latches the command, and its moves end in its one-step result. -/
theorem sequencerRefinesTheCommand : Obligations.SequencerRefinesTheCommand := by
  intro s d k hidle hk
  obtain ⟨m, rfl⟩ : ∃ m, k = m + 1 + 1 := ⟨k - 2, by omega⟩
  have hstart : step { s with inputs := [.start d] } = .next ((s.withInputs []).issued d) := by
    simp only [step, takeTurn, idleTurn, hidle]
    rfl
  have hissue : step { s with inputs := [.issue d] } = runCommand d (s.withInputs []) := by
    simp only [step, takeTurn, idleTurn, hidle]
    rfl
  rw [hissue, ← run_issued (s := s.withInputs []) rfl d (show 4 * d.b.toNat ≤ m by omega)]
  exact (run_succ _ _).trans (by rw [hstart, andThen_next])

end Sys2Proof.Machine

/-! What a block of ENC and DEC does to memory and to the chaining value (45_cbc_commands.md R184, R185), said once for
both; what a buffer's bytes may depend on and who may change them is derived from it. -/

namespace Sys2Proof.Machine

/-! The blocks of a buffer. -/

theorem blockAddr_succ (a : Word32) (j : Nat) : blockAddr a (j + 1) = blockAddr a j + 16 := by
  simp only [blockAddr]
  omega

/-- A block of the buffer begins and ends inside it. -/
theorem block_in_buffer {a len : Word32} {j : Nat} (h : j < blockCount len) :
    a.toNat ≤ blockAddr a j ∧ blockAddr a j + 16 ≤ a.toNat + len.toNat := by
  simp only [blockAddr, blockCount] at h ⊢
  omega

/-! The response of ENC and DEC. -/

@[simp] theorem finishBlocks_mem (n : Nat) (s : State) : (finishBlocks n s).mem = s.mem := by cases n <;> rfl
@[simp] theorem finishBlocks_cv (n : Nat) (s : State) : (finishBlocks n s).cv = s.cv := by cases n <;> rfl
@[simp] theorem finishBlocks_status (n : Nat) (s : State) : (finishBlocks n s).status = statusByte .ok := by
  cases n <;> rfl

/-! The command around its blocks (60_exceptions.md R227). -/

theorem bufferCommand_of_error {f : Nat → State → Result} {a len : Word32} {s : State} {c : StatusCode}
    (h : bufferError s a len = some c) : bufferCommand f a len s = .next (s.raiseError c) := by
  simp [bufferCommand, h]

theorem bufferCommand_of_checked {f : Nat → State → Result} {a len : Word32} {s : State}
    (h : bufferError s a len = none) :
    bufferCommand f a len s =
      andThen (eachBlock f a (blockCount len) 0 s) fun t => .next (finishBlocks (blockCount len) t) := by
  simp [bufferCommand, h]

/-! One block. -/

/-- What ENC writes over the block `b` (45_cbc_commands.md R184). -/
def encrypted (s : State) (b : Block) : Block := cipher s.w s.nr (Block.xor b s.cv)

/-- What DEC writes over the block `b` (45_cbc_commands.md R185). -/
def decrypted (s : State) (b : Block) : Block := Block.xor (invCipher s.w s.nr b) s.cv

@[simp] theorem State.withMat_withMat (s : State) (b c : Block) : (s.withMat b).withMat c = s.withMat c := rfl

@[simp] theorem chained_save (s : State) : (chained s).save = s.save := rfl
@[simp] theorem chained_mem (s : State) : (chained s).mem = s.mem := rfl

theorem encStore_of_answered {x : Nat} {s : State} (h : s.params.refusedAt x 16 = none) :
    encStore x s = .next ((s.withMem (s.mem.writeBytes x s.mat.toList)).withCv s.mat) := by
  rw [encStore, writeAt_of_answered h, andThen_next, State.withMem_mat]

theorem decStore_of_answered {x : Nat} {s : State} (h : s.params.refusedAt x 16 = none) :
    decStore x s = .next (((chained s).withMem (s.mem.writeBytes x (chained s).mat.toList)).withCv s.save) := by
  rw [decStore, writeAt_of_answered (s := chained s) h, andThen_next, State.withMem_save, chained_save, chained_mem]

theorem encBlock_of_answered {x : Nat} {s : State} (h : s.params.refusedAt x 16 = none) :
    encBlock x s = .next (((s.withMat (encrypted s (s.mem.bytes x 16))).withMem
      (s.mem.writeBytes x (encrypted s (s.mem.bytes x 16)).toList)).withCv (encrypted s (s.mem.bytes x 16))) := by
  simp [encBlock, encLoad, readThen_of_answered h, encStore_of_answered, h, encrypted, State.nr]

theorem decBlock_of_answered {x : Nat} {s : State} (h : s.params.refusedAt x 16 = none) :
    decBlock x s = .next ((((s.withSave (s.mem.bytes x 16)).withMat (decrypted s (s.mem.bytes x 16))).withMem
      (s.mem.writeBytes x (decrypted s (s.mem.bytes x 16)).toList)).withCv (s.mem.bytes x 16)) := by
  simp [decBlock, decLoad, readThen_of_answered h, decStore_of_answered, h, chained, decrypted, State.nr]

/-- The block step `f` writes `out` over the block that it reads, and chains `chain` to the next block; it is stuck
before it does anything at the first address of the block that the memory does not answer. -/
structure Rewrites (f : Nat → State → Result) (out chain : State → Block → Block) : Prop where
  inCommand : ∀ x, InCommand (f x)
  refused : ∀ {x s y}, s.params.refusedAt x 16 = some y → f x s = .fault (.notAdmitted y)
  answered : ∀ {x s}, s.params.refusedAt x 16 = none → ∃ t, f x s = .next t ∧
    t.mem = s.mem.writeBytes x (out s (s.mem.bytes x 16)).toList ∧ t.cv = chain s (s.mem.bytes x 16)

theorem rewrites_encBlock : Rewrites encBlock encrypted encrypted where
  inCommand := InCommand.encBlock
  refused h := by rw [encBlock, encLoad, readThen_of_refused h, andThen_fault]
  answered h := ⟨_, encBlock_of_answered h, by simp, by simp⟩

theorem rewrites_decBlock : Rewrites decBlock decrypted fun _ b => b where
  inCommand := InCommand.decBlock
  refused h := by rw [decBlock, decLoad, readThen_of_refused h, andThen_fault]
  answered h := ⟨_, decBlock_of_answered h, by simp, by simp⟩

end Sys2Proof.Machine

/-! Who writes memory (20_memory.md R48, R53). -/

namespace Sys2Proof.Machine

section Rewrites

variable {f : Nat → State → Result} {out chain : State → Block → Block} (hf : Rewrites f out chain)

include hf

theorem Rewrites.mem_outside {x y : Nat} {s t : State} (h : f x s = .next t) (hy : y < x ∨ x + 16 ≤ y) :
    t.mem.read y = s.mem.read y := by
  cases hans : s.params.refusedAt x 16 with
  | some z => cases (hf.refused hans).symm.trans h
  | none =>
    obtain ⟨u, hu, hmem, -⟩ := hf.answered hans
    cases hu.symm.trans h
    rw [hmem, Memory.read_writeBytes_other _ _ _ (by simpa using hy)]

theorem Rewrites.eachBlock_mem_outside {a : Word32} {n j y : Nat} {s t : State} (h : eachBlock f a n j s = .next t)
    (hy : y < blockAddr a j ∨ blockAddr a (j + n) ≤ y) : t.mem.read y = s.mem.read y := by
  induction n generalizing j s with
  | zero =>
    cases h
    rfl
  | succ n ih =>
    obtain ⟨u, hu, ht⟩ := andThen_eq_next.mp h
    simp only [blockAddr] at hy
    rw [ih ht (by simp only [blockAddr]; omega), State.withSeq_mem,
      hf.mem_outside hu (by simp only [blockAddr]; omega)]

theorem Rewrites.bufferCommand_mem_outside {a len : Word32} {s t : State} (h : bufferCommand f a len s = .next t)
    {y : Nat} (hy : (bufRegion a len).has y = false) : t.mem.read y = s.mem.read y := by
  cases hchecks : bufferError s a len with
  | some c =>
    cases (bufferCommand_of_error hchecks).symm.trans h
    rfl
  | none =>
    rw [bufferCommand_of_checked hchecks] at h
    obtain ⟨u, hu, ht⟩ := andThen_eq_next.mp h
    cases ht
    have hout : y < a.toNat ∨ a.toNat + len.toNat ≤ y := by
      have hnot : ¬(a.toNat ≤ y ∧ y < a.toNat + len.toNat) := fun hin =>
        Bool.false_ne_true (hy.symm.trans (Region.has_iff.mpr hin))
      omega
    rw [finishBlocks_mem, hf.eachBlock_mem_outside hu (by simp only [blockAddr, blockCount]; omega)]

end Rewrites

theorem mem_of_execInit {ksz : BitVec 2} {a b : Word32} {s t : State} (h : execInit ksz a b s = .next t) :
    t.mem = s.mem := by
  unfold execInit at h
  split at h
  · cases h
    rfl
  · split at h
    · obtain ⟨-, h⟩ := readThen_eq_next.mp h
      obtain ⟨-, h⟩ := readThen_eq_next.mp h
      cases h
      rfl
    · cases h
      rfl

theorem mem_of_execArk {r : BitVec 4} {s t : State} (h : execArk r s = .next t) : t.mem = s.mem := by
  unfold execArk at h
  split at h <;> cases h
  rfl

/-- Settles O40: a block of ENC or DEC is written where it was read, INIT only reads, and a micro-op writes S only. -/
theorem onlyTheBufferIsWritten : Obligations.OnlyTheBufferIsWritten := by
  intro i s t h
  cases i with
  | enc a len => exact fun _ => rewrites_encBlock.bufferCommand_mem_outside h
  | dec a len => exact fun _ => rewrites_decBlock.bufferCommand_mem_outside h
  | init ksz a b => exact mem_of_execInit h
  | ark r => exact mem_of_execArk h
  | sb | sr | mc | isb | isr | imc =>
    cases h
    rfl

end Sys2Proof.Machine

/-! Where a command is stuck (20_memory.md R52, R55; log 9, log 23). -/

namespace Sys2Proof

/-- The first refused address of two neighbouring runs is the first run's, or else the second's. -/
theorem Params.refusedAt_add (p : Params) (a m n : Nat) :
    p.refusedAt a (m + n) = (p.refusedAt a m).or (p.refusedAt (a + m) n) := by
  induction m generalizing a with
  | zero => simp [refusedAt]
  | succ m ih =>
    rw [Nat.succ_add, refusedAt, refusedAt, ih, Nat.add_right_comm, Nat.add_assoc]
    split <;> rfl

namespace Machine

section Rewrites

variable {f : Nat → State → Result} {out chain : State → Block → Block} (hf : Rewrites f out chain)

include hf

/-- The loop is stuck at the first unanswered address of its blocks: the blocks before it run. -/
theorem Rewrites.eachBlock_of_refused {a : Word32} {n j x : Nat} {s : State}
    (h : s.params.refusedAt (blockAddr a j) (16 * n) = some x) : eachBlock f a n j s = .fault (.notAdmitted x) := by
  induction n generalizing j s with
  | zero => cases h
  | succ n ih =>
    rw [Nat.mul_succ, Nat.add_comm, Params.refusedAt_add] at h
    rw [eachBlock]
    cases hblock : s.params.refusedAt (blockAddr a j) 16 with
    | some y =>
      rw [hblock] at h
      cases h
      rw [hf.refused hblock, andThen_fault]
    | none =>
      obtain ⟨t, ht, -, -⟩ := hf.answered hblock
      rw [hblock, Option.none_or, ← blockAddr_succ, ← ((hf.inCommand _).session ht).params] at h
      rw [ht, andThen_next]
      exact ih h

theorem Rewrites.bufferCommand_of_refused {a len : Word32} {x : Nat} {s : State} (hchecks : bufferError s a len = none)
    (h : s.params.refusedAt a.toNat len.toNat = some x) : bufferCommand f a len s = .fault (.notAdmitted x) := by
  obtain ⟨-, hwhole, -⟩ := bufferError_eq_none.mp hchecks
  have hlen : len.toNat = 16 * blockCount len := by
    unfold blockCount
    omega
  rw [hlen] at h
  rw [bufferCommand_of_checked hchecks, hf.eachBlock_of_refused (j := 0) h, andThen_fault]

end Rewrites

/-- INIT reads the key and then the IV, before it writes anything (20_memory.md R55). -/
theorem execInit_of_inRange {ksz : BitVec 2} {nk : KeySize} {a b : Word32} {s : State} (hk : keySizeOf ksz = some nk)
    (hrange : initInRange s nk a b = true) :
    execInit ksz a b s = readThen (4 * nk.words) a.toNat s fun key => readThen 16 b.toNat s fun iv =>
      .next (s.loadContext nk (initSchedule s nk key) iv).complete := by
  simp only [execInit, hk, hrange, if_true]

theorem execInit_of_refused {ksz : BitVec 2} {nk : KeySize} {a b : Word32} {x : Nat} {s : State}
    (hk : keySizeOf ksz = some nk) (hrange : initInRange s nk a b = true)
    (h : s.params.refusedAt a.toNat (4 * nk.words) = some x ∨
      (s.params.refusedAt a.toNat (4 * nk.words) = none ∧ s.params.refusedAt b.toNat 16 = some x)) :
    execInit ksz a b s = .fault (.notAdmitted x) := by
  rw [execInit_of_inRange hk hrange]
  rcases h with hkey | ⟨hkey, hiv⟩
  · exact readThen_of_refused hkey
  · rw [readThen_of_answered hkey, readThen_of_refused hiv]

/-- The move that begins a block is stuck where the block's load is. -/
theorem bufferMove_of_load_fault {load store : Nat → State → Result} {program : List Byte} {a len : Word32} {s : State}
    {e : Fault} (hprogram : 0 < program.length) (hchecks : bufferError s a len = none)
    (hblk : s.seq.blk < blockCount len) (hstep : s.seq.step = 0) (hload : load (blockAddr a s.seq.blk) s = .fault e) :
    bufferMove load store program a len s = .fault e := by
  rw [bufferMove_of_checked hchecks (Nat.ne_zero_of_lt hblk), microMove_eq (hstep ▸ hprogram), loadIfFirst,
    if_pos hstep, hload, andThen_fault]

theorem coreMove_of_refused {a len : Word32} {x : Nat} {s : State} (hbuf : HasBuffer s.cur a len)
    (hchecks : bufferError s a len = none) (hblk : s.seq.blk < blockCount len) (hstep : s.seq.step = 0)
    (h : s.params.refusedAt (blockAddr a s.seq.blk) 16 = some x) : coreMove s = .fault (.notAdmitted x) := by
  have hlength : 0 < 4 * s.nr := Nat.mul_pos (by decide) (one_le_nr s)
  unfold coreMove
  rcases hbuf with hd | hd <;> rw [hd]
  · exact bufferMove_of_load_fault (length_fwdProgram (one_le_nr s) ▸ hlength) hchecks hblk hstep
      (readThen_of_refused h)
  · exact bufferMove_of_load_fault (length_invProgram (one_le_nr s) ▸ hlength) hchecks hblk hstep
      (readThen_of_refused h)

/-- Settles O41: the blocks before the unanswered one run, INIT reads its key before its IV, and a BUSY core reads a block
with the block's first micro-op. -/
theorem unansweredAccessIsStuck : Obligations.UnansweredAccessIsStuck := by
  refine ⟨fun s a len x hchecks h => ?_, fun s ksz nk a b x hk hrange h => ?_,
    fun s a len x hbusy hinputs hbuf hchecks hblk hstep h => ?_⟩
  · exact ⟨rewrites_encBlock.bufferCommand_of_refused hchecks h, rewrites_decBlock.bufferCommand_of_refused hchecks h⟩
  · exact execInit_of_refused hk hrange h
  · rw [step_of_busy hbusy hinputs, coreMove_of_refused hbuf hchecks hblk hstep h]

end Machine

end Sys2Proof

/-! The block pipelines read the schedule words that a context uses, and no others (10_state.md R25). -/

namespace Sys2Proof.Machine

section SameKeys

variable {nk : KeySize} {v w : Schedule} (h : sameKeys nk v w)

include h

theorem addRoundKey_congr {r : Nat} (hr : r ≤ nk.rounds) (b : Block) : addRoundKey v r b = addRoundKey w r b := by
  ext k hk
  have hword : wordAt v (4 * r + k / 4) = wordAt w (4 * r + k / 4) := h _ (by unfold KeySize.scheduleWords; omega)
  rw [getElem_addRoundKey, getElem_addRoundKey, getElem_roundKey, getElem_roundKey, hword]

theorem forwardRounds_congr {n r : Nat} (hr : r + n ≤ nk.rounds + 1) (b : Block) :
    forwardRounds v n r b = forwardRounds w n r b := by
  induction n generalizing r b with
  | zero => rfl
  | succ n ih =>
    rw [forwardRounds, forwardRounds, forwardRound, forwardRound, addRoundKey_congr h (by omega), ih (by omega)]

theorem inverseRounds_congr {n : Nat} (hn : n ≤ nk.rounds) (b : Block) : inverseRounds v n b = inverseRounds w n b := by
  induction n generalizing b with
  | zero => rfl
  | succ n ih =>
    rw [inverseRounds, inverseRounds, inverseRound, inverseRound, addRoundKey_congr h hn, ih (by omega)]

theorem cipher_congr (b : Block) : cipher v nk.rounds b = cipher w nk.rounds b := by
  rw [cipher, cipher, addRoundKey_congr h (Nat.zero_le _), forwardRounds_congr h (by omega),
    addRoundKey_congr h (Nat.le_refl _)]

theorem invCipher_congr (b : Block) : invCipher v nk.rounds b = invCipher w nk.rounds b := by
  rw [invCipher, invCipher, addRoundKey_congr h (Nat.le_refl _), inverseRounds_congr h (Nat.sub_le _ _),
    addRoundKey_congr h (Nat.zero_le _)]

end SameKeys

end Sys2Proof.Machine

/-! What the result of ENC and DEC depends on (20_memory.md R56). -/

namespace Sys2Proof.Machine

/-- The two memories, both canonical, read alike at the region's addresses. -/
structure ReadAlike (g : Region) (m n : Memory) : Prop where
  left : m.wf = true
  right : n.wf = true
  read : ∀ x, g.has x = true → m.read x = n.read x

/-- What ENC and DEC go by is the same in both states: the context, the parameters and the buffer's bytes. -/
structure SameView (g : Region) (s u : State) : Prop where
  ctxValid : s.ctxValid = u.ctxValid
  nk : s.nk = u.nk
  keys : sameKeys s.nk s.w u.w
  cv : s.cv = u.cv
  params : s.params = u.params
  mem : ReadAlike g s.mem u.mem

/-- The context and the buffer's bytes decide what `out` makes of a block. -/
def OfContext (out : State → Block → Block) : Prop :=
  ∀ {g s u}, SameView g s u → ∀ b, out s b = out u b

theorem ofContext_encrypted : OfContext encrypted := fun {_ s u} h b => by
  rw [encrypted, encrypted, State.nr, State.nr, ← h.nk, ← h.cv, cipher_congr h.keys]

theorem ofContext_decrypted : OfContext decrypted := fun {_ s u} h b => by
  rw [decrypted, decrypted, State.nr, State.nr, ← h.nk, ← h.cv, invCipher_congr h.keys]

namespace ReadAlike

variable {g : Region} {m n : Memory} (h : ReadAlike g m n)

include h

theorem bytes_eq {a len : Nat} (hin : ∀ k < len, g.has (a + k) = true) : m.bytes a len = n.bytes a len := by
  ext k hk
  rw [Memory.getElem_bytes, Memory.getElem_bytes, h.read _ (hin k hk)]

/-- The same bytes written into both leave them alike. -/
theorem writeBytes (a : Nat) (vs : List Byte) : ReadAlike g (m.writeBytes a vs) (n.writeBytes a vs) where
  left := Memory.wf_writeBytes h.left a vs
  right := Memory.wf_writeBytes h.right a vs
  read x hx := by
    by_cases hin : a ≤ x ∧ x < a + vs.length
    · obtain ⟨k, rfl⟩ := Nat.exists_eq_add_of_le hin.1
      have hk : k < vs.length := by omega
      rw [Memory.read_writeBytes h.left a vs k hk, Memory.read_writeBytes h.right a vs k hk]
    · rw [Memory.read_writeBytes_other _ _ _ (by omega), Memory.read_writeBytes_other _ _ _ (by omega), h.read x hx]

end ReadAlike

/-- Both results are next states in the relation, or both stop at the same fault. -/
def EndAlike (R : State → State → Prop) (r q : Result) : Prop :=
  (∃ t v, r = .next t ∧ q = .next v ∧ R t v) ∨ ∃ e, r = .fault e ∧ q = .fault e

theorem EndAlike.next {R : State → State → Prop} {s u : State} (h : R s u) : EndAlike R (.next s) (.next u) :=
  .inl ⟨s, u, rfl, rfl, h⟩

theorem EndAlike.andThen {R R' : State → State → Prop} {r q : Result} {f : State → Result} (h : EndAlike R r q)
    (hf : ∀ t v, R t v → EndAlike R' (f t) (f v)) : EndAlike R' (andThen r f) (andThen q f) := by
  rcases h with ⟨t, v, rfl, rfl, htv⟩ | ⟨e, rfl, rfl⟩
  · exact hf t v htv
  · exact .inr ⟨e, rfl, rfl⟩

theorem SameView.withSeq {g : Region} {s u : State} (h : SameView g s u) (p q : SeqPos) :
    SameView g (s.withSeq p) (u.withSeq q) :=
  ⟨h.ctxValid, h.nk, h.keys, h.cv, h.params, h.mem⟩

/-- Operations inside a command that end with the same CV and alike memories keep the view the same. -/
theorem SameView.of_session {g : Region} {s u t v : State} (h : SameView g s u) (hst : SameSession s t)
    (huv : SameSession u v) (hcv : t.cv = v.cv) (hmem : ReadAlike g t.mem v.mem) : SameView g t v where
  ctxValid := by rw [hst.ctxValid, huv.ctxValid, h.ctxValid]
  nk := by rw [hst.nk, huv.nk, h.nk]
  keys := by rw [hst.nk, hst.w, huv.w]; exact h.keys
  cv := hcv
  params := by rw [hst.params, huv.params, h.params]
  mem := hmem

/-- What the host sees of two responses to one ENC or DEC, and the CV of a session that goes on. -/
def SameResponse (g : Region) (t v : State) : Prop :=
  t.status = v.status ∧ t.ctxValid = v.ctxValid ∧ (∀ x, g.has x = true → t.mem.read x = v.mem.read x) ∧
    (t.ctxValid = true → t.cv = v.cv)

theorem SameView.finishBlocks {g : Region} {s u : State} (h : SameView g s u) (n : Nat) :
    SameResponse g (finishBlocks n s) (finishBlocks n u) := by
  simpa [SameResponse] using ⟨h.ctxValid, h.mem.read, fun _ => h.cv⟩

theorem SameView.raiseError {g : Region} {s u : State} (h : SameView g s u) (c : StatusCode) :
    SameResponse g (s.raiseError c) (u.raiseError c) :=
  ⟨rfl, rfl, h.mem.read, nofun⟩

section Rewrites

variable {f : Nat → State → Result} {out chain : State → Block → Block} (hf : Rewrites f out chain)
  (hout : OfContext out) (hchain : OfContext chain)

include hf hout hchain

theorem Rewrites.block_endAlike {g : Region} {s u : State} (h : SameView g s u) {x : Nat}
    (hin : ∀ k < 16, g.has (x + k) = true) : EndAlike (SameView g) (f x s) (f x u) := by
  cases hans : s.params.refusedAt x 16 with
  | some y => exact .inr ⟨_, hf.refused hans, hf.refused (h.params ▸ hans)⟩
  | none =>
    obtain ⟨t, ht, htmem, htcv⟩ := hf.answered hans
    obtain ⟨v, hv, hvmem, hvcv⟩ := hf.answered (h.params ▸ hans)
    have hbytes := h.mem.bytes_eq hin
    refine .inl ⟨t, v, ht, hv, h.of_session ((hf.inCommand x).session ht) ((hf.inCommand x).session hv) ?_ ?_⟩
    · rw [htcv, hvcv, hbytes, hchain h]
    · rw [htmem, hvmem, hbytes, hout h]
      exact h.mem.writeBytes x _

theorem Rewrites.eachBlock_endAlike {a len : Word32} {n j : Nat} (hj : j + n ≤ blockCount len) {s u : State}
    (h : SameView (bufRegion a len) s u) :
    EndAlike (SameView (bufRegion a len)) (eachBlock f a n j s) (eachBlock f a n j u) := by
  induction n generalizing j s u with
  | zero => exact EndAlike.next h
  | succ n ih =>
    have hin (k : Nat) (hk : k < 16) : (bufRegion a len).has (blockAddr a j + k) = true := by
      obtain ⟨hlo, hhi⟩ := block_in_buffer (a := a) (len := len) (j := j) (by omega)
      exact Region.has_iff.mpr ⟨by simp only [bufRegion]; omega, by simp only [bufRegion]; omega⟩
    exact (hf.block_endAlike hout hchain h hin).andThen fun t v htv => ih (by omega) (htv.withSeq _ _)

theorem Rewrites.bufferCommand_endAlike {a len : Word32} {s u : State} (h : SameView (bufRegion a len) s u) :
    EndAlike (SameResponse (bufRegion a len)) (bufferCommand f a len s) (bufferCommand f a len u) := by
  have hsame := bufferError_congr h.ctxValid h.params a len
  cases hchecks : bufferError s a len with
  | some c =>
    rw [bufferCommand_of_error hchecks, bufferCommand_of_error (hsame ▸ hchecks)]
    exact EndAlike.next (h.raiseError c)
  | none =>
    rw [bufferCommand_of_checked hchecks, bufferCommand_of_checked (hsame ▸ hchecks)]
    exact (hf.eachBlock_endAlike hout hchain (by omega) h).andThen fun t v htv => EndAlike.next (htv.finishBlocks _)

end Rewrites

/-- Settles O47: the checks, each block's stop, its bytes and its chaining value are functions of what the two states have
in common. -/
theorem resultDependsOnContextAndBufferOnly : Obligations.ResultDependsOnContextAndBufferOnly := by
  intro s u a len hs hu hvalid hnk hkeys hcv hparams hread i hi
  have hview : SameView (bufRegion a len) s u := ⟨hvalid, hnk, hkeys, hcv, hparams, ⟨hs, hu, hread⟩⟩
  rcases hi with rfl | rfl
  · exact rewrites_encBlock.bufferCommand_endAlike ofContext_encrypted ofContext_encrypted hview
  · exact rewrites_decBlock.bufferCommand_endAlike ofContext_decrypted (fun _ _ => rfl) hview

end Sys2Proof.Machine

/-! The decoders and the encoder (30_encoding.md R76, R81, R82): what each of the two decoders answers on an assembled
code, and that an accepted code is an assembled one. -/

namespace Sys2Proof

/-- What is no instruction is rejected. -/
theorem Decoded.rejected_of_not_instr {d : Decoded} (h : ∀ i, d ≠ .instr i) : ∃ r, d = .rejected r := by
  cases d with
  | instr i => exact absurd rfl (h i)
  | rejected r => exact ⟨r, rfl⟩

/-! Commands. -/

section Command

variable (a b : Word32)

theorem decodeCommand_init (ksz : BitVec 2) : decodeCommand ⟨cmdWord ksz 1, a, b⟩ = .instr (.init ksz a b) := by
  simp [decodeCommand]

theorem decodeCommand_enc : decodeCommand ⟨cmdWord 0 2, a, b⟩ = .instr (.enc a b) := by
  simp [decodeCommand]

theorem decodeCommand_dec : decodeCommand ⟨cmdWord 0 3, a, b⟩ = .instr (.dec a b) := by
  simp [decodeCommand]

/-- 30_encoding.md R75: key size bits are reserved on ENC and DEC. -/
theorem decodeCommand_of_keySizeBits {ksz : BitVec 2} {op : BitVec 4} (hksz : ksz ≠ 0) (hop : op = 2 ∨ op = 3) :
    decodeCommand ⟨cmdWord ksz op, a, b⟩ = .rejected .keySizeBits := by
  rcases hop with rfl | rfl <;> simpa [decodeCommand] using hksz

end Command

/-- An accepted descriptor is the code of a command, its reserved bits included (30_encoding.md R75, R76). -/
theorem encode_of_decodeCommand {d : Descriptor} {i : Instr} (h : decodeCommand d = .instr i) :
    i.wellFormed = true ∧ encode i = .command d := by
  have hcmd (ksz : BitVec 2) (op : BitVec 4) (hrsv : rsvField d.cmd = 0) (hksz : kszField d.cmd = ksz)
      (hop : opField d.cmd = op) : (⟨cmdWord ksz op, d.a, d.b⟩ : Descriptor) = d := by
    rw [← hksz, ← hop, cmdWord_fields hrsv]
  unfold decodeCommand at h
  split_ifs at h with hrsv hinit henc hksz hdec hksz <;> cases h
  · exact ⟨rfl, congrArg Code.command (hcmd _ 1 (not_not.mp hrsv) rfl hinit)⟩
  · exact ⟨rfl, congrArg Code.command (hcmd 0 2 (not_not.mp hrsv) hksz henc)⟩
  · exact ⟨rfl, congrArg Code.command (hcmd 0 3 (not_not.mp hrsv) hksz hdec)⟩

/-! Micro-ops. -/

/-- The classes that name no micro-op other than ARK (30_encoding.md R81, R82). -/
theorem plainMicroOp_eq_none {cls : BitVec 4} : plainMicroOp cls = none ↔ cls = 0 ∨ 7 ≤ cls.toNat := by
  revert cls
  decide

/-- The byte of `ARK r` is `r` (30_encoding.md R81). -/
theorem uopByte_zero (r : BitVec 4) : uopByte 0 r = BitVec.ofNat 8 r.toNat := by
  revert r
  decide

/-- A plain micro-op is well-formed, and its code is its class with no round index. -/
theorem encode_of_plainMicroOp {cls : BitVec 4} {i : Instr} (h : plainMicroOp cls = some i) :
    i.wellFormed = true ∧ encode i = .microOp (uopByte cls 0) := by
  unfold plainMicroOp at h
  split_ifs at h with hcls hcls hcls hcls hcls hcls <;> cases h <;> exact ⟨rfl, hcls ▸ rfl⟩

theorem decodeMicroOp_ark {r : BitVec 4} (hr : r ≠ 15) : decodeMicroOp (uopByte 0 r) = .instr (.ark r) := by
  rw [decodeMicroOp, clsField_uopByte, rndField_uopByte, if_pos rfl, if_neg hr]

/-- 30_encoding.md R81, R82: a byte of a plain micro-op's class stands for it, or has a round index. -/
theorem decodeMicroOp_of_plainClass {u : Byte} {i : Instr} (h : plainMicroOp (clsField u) = some i) :
    decodeMicroOp u = if rndField u = 0 then .instr i else .rejected .roundBits := by
  have hcls : clsField u ≠ 0 := fun h0 => by rw [plainMicroOp_eq_none.mpr (.inl h0)] at h; cases h
  rw [decodeMicroOp, if_neg hcls, h]

theorem decodeMicroOp_of_plain {cls : BitVec 4} {i : Instr} (h : plainMicroOp cls = some i) :
    decodeMicroOp (uopByte cls 0) = .instr i := by
  rw [decodeMicroOp_of_plainClass ((clsField_uopByte cls 0).symm ▸ h), rndField_uopByte, if_pos rfl]

/-- 30_encoding.md R82: `ARK 15`. -/
theorem decodeMicroOp_of_fifteen {u : Byte} (hcls : clsField u = 0) (hrnd : rndField u = 15) :
    decodeMicroOp u = .rejected .roundKeyFifteen := by
  rw [decodeMicroOp, if_pos hcls, if_pos hrnd]

/-- 30_encoding.md R82: the reserved classes. -/
theorem decodeMicroOp_of_reservedClass {u : Byte} (h : 7 ≤ (clsField u).toNat) :
    decodeMicroOp u = .rejected .reservedClass := by
  have hcls : clsField u ≠ 0 := fun h0 => by rw [h0] at h; exact absurd h (by decide)
  rw [decodeMicroOp, if_neg hcls, plainMicroOp_eq_none.mpr (.inr h)]

/-- An accepted byte is the code of a well-formed micro-op (30_encoding.md R81, R82). -/
theorem encode_of_decodeMicroOp {u : Byte} {i : Instr} (h : decodeMicroOp u = .instr i) :
    i.wellFormed = true ∧ encode i = .microOp u := by
  have hu := uopByte_fields u
  unfold decodeMicroOp at h
  split at h
  · next hcls =>
    split at h <;> cases h
    next hrnd =>
    rw [hcls] at hu
    exact ⟨bne_iff_ne.mpr hrnd, congrArg Code.microOp hu⟩
  · split at h
    · cases h
    · next hplain =>
      split at h <;> cases h
      next hrnd =>
      rw [hrnd] at hu
      exact hu ▸ encode_of_plainMicroOp hplain

end Sys2Proof

/-! The encoding (30_encoding.md). -/

namespace Sys2Proof.Machine

/-- Settles O1: each instruction's code is assembled from its fields, which the decoder reads back. -/
theorem decodeOfEncodeIsTheInstruction : Obligations.DecodeOfEncodeIsTheInstruction := by
  intro i hwf
  cases i with
  | init ksz a b => exact decodeCommand_init a b ksz
  | enc a len => exact decodeCommand_enc a len
  | dec a len => exact decodeCommand_dec a len
  | ark r => exact decodeMicroOp_ark (bne_iff_ne.mp hwf)
  | sb | sr | mc | isb | isr | imc => exact decodeMicroOp_of_plain rfl

/-- Settles O2: an accepted code is assembled from the fields that the decoder read, the reserved ones being 0. -/
theorem acceptedCodeIsTheEncoding : Obligations.AcceptedCodeIsTheEncoding := by
  intro c i h
  cases c with
  | command d => exact encode_of_decodeCommand h
  | microOp u => exact encode_of_decodeMicroOp h

/-- Settles O3: an accepted descriptor would be the code of INIT, ENC or DEC, whose CMD words are the six of the map. -/
theorem commandMapHasOneRowPerValue : Obligations.CommandMapHasOneRowPerValue := by
  refine ⟨fun a b => ⟨decodeCommand_init a b 0, decodeCommand_init a b 1, decodeCommand_init a b 2,
    decodeCommand_init a b 3, decodeCommand_enc a b, decodeCommand_dec a b⟩, ?_⟩
  intro cmd a b h01 h11 h21 h31 h02 h03
  refine Decoded.rejected_of_not_instr fun i hi => ?_
  obtain ⟨-, hcode⟩ := encode_of_decodeCommand hi
  cases i with
  | init ksz a' b' =>
    cases hcode
    fin_cases ksz
    · exact h01 rfl
    · exact h11 rfl
    · exact h21 rfl
    · exact h31 rfl
  | enc a' len => cases hcode; exact h02 rfl
  | dec a' len => cases hcode; exact h03 rfl
  | ark | sb | sr | mc | isb | isr | imc => cases hcode

/-- Settles O4: an accepted byte would be the code of an ARK below 15 or of one of the six plain micro-ops. -/
theorem microOpMap : Obligations.MicroOpMap := by
  refine ⟨fun r hr => ?_, rfl, rfl, rfl, rfl, rfl, rfl, ?_⟩
  · rw [← uopByte_zero, decodeMicroOp_ark hr]
  intro u hlow hsb hsr hmc hisb hisr himc
  refine Decoded.rejected_of_not_instr fun i hi => ?_
  obtain ⟨hwf, hcode⟩ := encode_of_decodeMicroOp hi
  cases i with
  | init | enc | dec => cases hcode
  | ark r =>
    cases hcode
    have hr : r.toNat ≠ 15 := fun h => bne_iff_ne.mp hwf (BitVec.eq_of_toNat_eq h)
    rw [uopByte_zero, BitVec.toNat_ofNat] at hlow
    omega
  | sb => cases hcode; exact hsb rfl
  | sr => cases hcode; exact hsr rfl
  | mc => cases hcode; exact hmc rfl
  | isb => cases hcode; exact hisb rfl
  | isr => cases hcode; exact hisr rfl
  | imc => cases hcode; exact himc rfl

/-- Settles O5: the words are evaluated. -/
theorem writtenOutWordsDecode : Obligations.WrittenOutWordsDecode := by
  unfold Obligations.WrittenOutWordsDecode
  decide

/-! Ill-formed micro-ops (30_encoding.md R82). -/

theorem runMicroOp_of_rejected {u : Byte} {r : Reject} (h : decodeMicroOp u = .rejected r) (s : State) :
    runMicroOp u s = .refused (.illFormedMicroOp u) := by
  simp only [runMicroOp, h]

/-- `ARK r` with `NR < r` is refused with the byte that stands for it, by the decoder where `r` is 15 and by the meaning
otherwise. -/
theorem runMicroOp_of_nr_lt {u : Byte} {s : State} (hcls : clsField u = 0) (hrnd : s.nr < (rndField u).toNat) :
    runMicroOp u s = .refused (.illFormedMicroOp u) := by
  by_cases hr : rndField u = 15
  · exact runMicroOp_of_rejected (decodeMicroOp_of_fifteen hcls hr) s
  · have hu : uopByte 0 (rndField u) = u := hcls ▸ uopByte_fields u
    have hexec : execArk (rndField u) s = .refused (.illFormedMicroOp (uopByte 0 (rndField u))) :=
      if_neg (Nat.not_le_of_lt hrnd)
    have hdecode := decodeMicroOp_ark hr
    rw [hu] at hexec hdecode
    simp only [runMicroOp, hdecode, exec, hexec]

/-- Settles O21: one case per kind of ill-formed byte; the bytes of a microprogram run because the whole of it does. -/
theorem illFormedMicroOpsAreRefused : Obligations.IllFormedMicroOpsAreRefused := by
  refine ⟨fun s u hill => ?_, fun s => ?_, fun s u hu => ?_⟩
  · rcases hill with hreserved | ⟨hlo, hhi, hrnd⟩ | ⟨hcls, hrnd⟩
    · exact runMicroOp_of_rejected (decodeMicroOp_of_reservedClass hreserved) s
    · cases hplain : plainMicroOp (clsField u) with
      | none =>
        rcases plainMicroOp_eq_none.mp hplain with hzero | hseven
        · simp [hzero] at hlo
        · omega
      | some i => exact runMicroOp_of_rejected ((decodeMicroOp_of_plainClass hplain).trans (if_neg hrnd)) s
    · exact runMicroOp_of_nr_lt hcls hrnd
  · exact runMicroOp_of_rejected (decodeMicroOp_of_fifteen rfl rfl) s
  · rcases hu with hfwd | hinv
    · exact runMicroOp_runs_of_mem (runMicroOps_fwdProgram s) hfwd
    · exact runMicroOp_runs_of_mem (runMicroOps_invProgram s) hinv

/-! Key sizes (30_encoding.md R73). -/

/-- An INIT whose KSZ selects no key size ends in ERR_KEYLEN before any access (60_exceptions.md R222). -/
theorem execInit_of_keyLen {ksz : BitVec 2} (hk : keySizeOf ksz = none) (a b : Word32) (s : State) :
    execInit ksz a b s = .next (s.raiseError .keyLen) := by
  simp only [execInit, hk]

/-- Settles O28: the table by evaluation, KSZ = 3 by INIT's error entry, KSZ not 0 on ENC and DEC by the decoder. -/
theorem keySizesOfKsz : Obligations.KeySizesOfKsz :=
  ⟨rfl, rfl, rfl, rfl, fun a b s => ⟨_, execInit_of_keyLen (ksz := 3) rfl a b s, rfl⟩,
    fun _ a b hksz =>
      ⟨decodeCommand_of_keySizeBits a b hksz (.inl rfl), decodeCommand_of_keySizeBits a b hksz (.inr rfl)⟩⟩

end Sys2Proof.Machine

/-! GF(2^8): doubling, and `gmul` as the field product (40_gf256.md R100 to R104). -/

namespace Sys2Proof.Machine

/-! Doubling and addition (40_gf256.md R100 to R102). -/

@[simp] theorem gadd_zero (a : Byte) : gadd a 0x00 = a := BitVec.xor_zero

@[simp] theorem zero_gadd (a : Byte) : gadd 0x00 a = a := BitVec.zero_xor

@[simp] theorem gadd_self (a : Byte) : gadd a a = 0x00 := BitVec.xor_self

theorem gadd_gadd_gadd_comm (a b c d : Byte) : gadd (gadd a b) (gadd c d) = gadd (gadd a c) (gadd b d) := by
  unfold gadd
  ac_rfl

/-- R100 with one XOR, by 0x1B or by nothing. -/
theorem xtime_eq_gadd (b : Byte) : xtime b = gadd (b <<< 1) (if b.getLsbD 7 then 0x1b else 0x00) := by
  unfold xtime
  split
  · rfl
  · exact (gadd_zero _).symm

theorem getLsbD_seven (b : Byte) : b.getLsbD 7 = decide (128 ≤ b.toNat) :=
  (BitVec.msb_eq_getLsbD_last b).symm.trans (BitVec.msb_eq_decide b)

theorem toNat_xtime_of_lt {b : Byte} (hb : b.toNat < 128) : (xtime b).toNat = 2 * b.toNat := by
  have htop : b.getLsbD 7 = false := (getLsbD_seven b).trans (decide_eq_false (Nat.not_le_of_lt hb))
  rw [xtime_eq_gadd, htop, if_neg Bool.false_ne_true, gadd_zero, BitVec.toNat_shiftLeft, Nat.shiftLeft_eq]
  omega

theorem toNat_xtime_of_le {b : Byte} (hb : 128 ≤ b.toNat) :
    (xtime b).toNat = (2 * b.toNat - 256) ^^^ 0x1b := by
  have htop : b.getLsbD 7 = true := (getLsbD_seven b).trans (decide_eq_true hb)
  have hdrop : (b <<< 1).toNat = 2 * b.toNat - 256 := by
    rw [BitVec.toNat_shiftLeft, Nat.shiftLeft_eq]
    omega
  rw [xtime_eq_gadd, htop, if_pos rfl, gadd, BitVec.toNat_xor, hdrop]
  rfl

/-- Doubling is additive: the reductions by 0x1B cancel where both operands have the top bit. -/
theorem xtime_gadd (a b : Byte) : xtime (gadd a b) = gadd (xtime a) (xtime b) := by
  have hshift : gadd a b <<< 1 = gadd (a <<< 1) (b <<< 1) := BitVec.shiftLeft_xor_distrib a b 1
  have htop : (gadd a b).getLsbD 7 = (a.getLsbD 7 ^^ b.getLsbD 7) := BitVec.getLsbD_xor
  have hreduce : ∀ x y : Bool, (if (x ^^ y) = true then (0x1b : Byte) else 0x00) =
      gadd (if x then 0x1b else 0x00) (if y then 0x1b else 0x00) := by decide
  rw [xtime_eq_gadd (gadd a b), hshift, htop, hreduce, gadd_gadd_gadd_comm, ← xtime_eq_gadd, ← xtime_eq_gadd]

/-! The loop of `gmul` (40_gf256.md R103). -/

theorem gmulFrom_of_bit {k : Byte} (hbit : k.getLsbD 0 = true) (n : Nat) (p acc : Byte) :
    gmulFrom (n + 1) p k acc = gmulFrom n (xtime p) (k >>> 1) (gadd acc p) := by
  rw [gmulFrom, if_pos hbit]

theorem gmulFrom_of_not_bit {k : Byte} (hbit : ¬ k.getLsbD 0 = true) (n : Nat) (p acc : Byte) :
    gmulFrom (n + 1) p k acc = gmulFrom n (xtime p) (k >>> 1) acc := by
  rw [gmulFrom, if_neg hbit]

/-- The loop is additive in the doubled operand and the accumulator together. -/
theorem gmulFrom_gadd (n : Nat) (p q k acc acc' : Byte) :
    gmulFrom n (gadd p q) k (gadd acc acc') = gadd (gmulFrom n p k acc) (gmulFrom n q k acc') := by
  induction n generalizing p q k acc acc' with
  | zero => rfl
  | succ n ih =>
    by_cases hbit : k.getLsbD 0 = true
    · simp only [gmulFrom_of_bit hbit, xtime_gadd, gadd_gadd_gadd_comm acc acc' p q, ih]
    · simp only [gmulFrom_of_not_bit hbit, xtime_gadd, ih]

/-- A map that is additive and commutes with doubling passes through the loop. -/
theorem map_gmulFrom {f : Byte → Byte} (hadd : ∀ a b, f (gadd a b) = gadd (f a) (f b))
    (hdouble : ∀ a, f (xtime a) = xtime (f a)) (n : Nat) (p k acc : Byte) :
    f (gmulFrom n p k acc) = gmulFrom n (f p) k (f acc) := by
  induction n generalizing p k acc with
  | zero => rfl
  | succ n ih =>
    by_cases hbit : k.getLsbD 0 = true
    · simp only [gmulFrom_of_bit hbit, ih, hdouble, hadd]
    · simp only [gmulFrom_of_not_bit hbit, ih, hdouble]

/-! The product (40_gf256.md R103). -/

theorem gadd_gmul (a b k : Byte) : gmul (gadd a b) k = gadd (gmul a k) (gmul b k) :=
  gmulFrom_gadd 8 a b k 0x00 0x00

theorem xtime_gmul (a k : Byte) : gmul (xtime a) k = xtime (gmul a k) :=
  (map_gmulFrom xtime_gadd (fun _ => rfl) 8 a k 0x00).symm

@[simp] theorem zero_gmul (k : Byte) : gmul 0x00 k = 0x00 :=
  calc gmul 0x00 k = gadd (gmul 0x00 k) (gmul 0x00 k) := gadd_gmul 0x00 0x00 k
    _ = 0x00 := gadd_self _

/-- The eight doublings of 01 are the single bits, so the loop puts `k` together again; checked byte by byte. -/
@[simp] theorem one_gmul : ∀ k : Byte, gmul 0x01 k = k := by
  decide

/-- Multiplication by `k` passes through the loop that puts `a` together from the doublings of 01. -/
theorem gmul_comm (a k : Byte) : gmul a k = gmul k a :=
  calc gmul a k = gmul (gmulFrom 8 0x01 a 0x00) k := congrArg (gmul · k) (one_gmul a).symm
    _ = gmulFrom 8 (gmul 0x01 k) a (gmul 0x00 k) :=
      map_gmulFrom (f := (gmul · k)) (gadd_gmul · · k) (xtime_gmul · k) 8 0x01 a 0x00
    _ = gmul k a := by rw [one_gmul, zero_gmul, gmul]

@[simp] theorem gmul_one (a : Byte) : gmul a 0x01 = a := by
  rw [gmul_comm, one_gmul]

theorem gmul_gadd (a k k' : Byte) : gmul a (gadd k k') = gadd (gmul a k) (gmul a k') := by
  simp only [gmul_comm a, gadd_gmul]

theorem gmul_xtime (a k : Byte) : gmul a (xtime k) = xtime (gmul a k) := by
  simp only [gmul_comm a, xtime_gmul]

/-- Settles O8: `gmul` is additive and commutes with doubling on the left; commutativity follows from these and the unit. -/
theorem gmulIsTheFieldProduct : Obligations.GmulIsTheFieldProduct := by
  refine ⟨fun a => ⟨gmul_one a, one_gmul a⟩, fun a k => ?_, gmul_comm, gadd_gmul⟩
  have hdouble := xtime_gmul a k
  rwa [xtime_eq_gadd, xtime_eq_gadd] at hdouble

/-- Settles O6: the two cases of the top bit; the examples are evaluated. -/
theorem xtimeShiftsAndReduces : Obligations.XtimeShiftsAndReduces := by
  refine ⟨fun b => ?_, by decide⟩
  split
  case isTrue hb => exact toNat_xtime_of_lt hb
  case isFalse hb => exact toNat_xtime_of_le (Nat.le_of_not_lt hb)

/-! The constants (40_gf256.md R104): each is a sum of doublings of 01. -/

theorem gmul_of_xtime_eq {a k m x : Byte} (h : gmul a k = x) (hm : xtime k = m) : gmul a m = xtime x := by
  rw [← hm, gmul_xtime, h]

theorem gmul_of_gadd_eq {a k k' m x y : Byte} (h : gmul a k = x) (h' : gmul a k' = y) (hm : gadd k k' = m) :
    gmul a m = x ^^^ y := by
  rw [← hm, gmul_gadd, h, h', gadd]

theorem gmul_two (a : Byte) : gmul a 0x02 = xtime a := gmul_of_xtime_eq (gmul_one a) rfl

theorem gmul_four (a : Byte) : gmul a 0x04 = xtime (xtime a) := gmul_of_xtime_eq (gmul_two a) rfl

theorem gmul_eight (a : Byte) : gmul a 0x08 = xtime (xtime (xtime a)) := gmul_of_xtime_eq (gmul_four a) rfl

theorem gmul_three (a : Byte) : gmul a 0x03 = xtime a ^^^ a := gmul_of_gadd_eq (gmul_two a) (gmul_one a) rfl

theorem gmul_nine (a : Byte) : gmul a 0x09 = xtime (xtime (xtime a)) ^^^ a :=
  gmul_of_gadd_eq (gmul_eight a) (gmul_one a) rfl

theorem gmul_ten (a : Byte) : gmul a 0x0a = xtime (xtime (xtime a)) ^^^ xtime a :=
  gmul_of_gadd_eq (gmul_eight a) (gmul_two a) rfl

theorem gmul_eleven (a : Byte) : gmul a 0x0b = xtime (xtime (xtime a)) ^^^ xtime a ^^^ a :=
  gmul_of_gadd_eq (gmul_ten a) (gmul_one a) rfl

theorem gmul_twelve (a : Byte) : gmul a 0x0c = xtime (xtime (xtime a)) ^^^ xtime (xtime a) :=
  gmul_of_gadd_eq (gmul_eight a) (gmul_four a) rfl

theorem gmul_thirteen (a : Byte) : gmul a 0x0d = xtime (xtime (xtime a)) ^^^ xtime (xtime a) ^^^ a :=
  gmul_of_gadd_eq (gmul_twelve a) (gmul_one a) rfl

theorem gmul_fourteen (a : Byte) : gmul a 0x0e = xtime (xtime (xtime a)) ^^^ xtime (xtime a) ^^^ xtime a :=
  gmul_of_gadd_eq (gmul_twelve a) (gmul_two a) rfl

/-- Settles O7: the rows of R104, each by distributivity over the doublings of 01. -/
theorem gmulConstants : Obligations.GmulConstants := fun a =>
  ⟨gmul_one a, gmul_two a, gmul_three a, gmul_nine a, gmul_eleven a, gmul_thirteen a, gmul_fourteen a⟩

end Sys2Proof.Machine

/-! The S-box (41_sbox.md R110 to R113). The tables are literals, so what ties them to a law is one evaluation over their
entries; the rest follows from that. -/

namespace Sys2Proof.Machine

/-! The inverse table (41_sbox.md R113). -/

/-- The law the source states, checked entry by entry. -/
@[simp] theorem invSbox_sbox : ∀ x : Byte, invSbox (sbox x) = x := by
  decide

theorem sbox_injective : Function.Injective sbox := Function.LeftInverse.injective invSbox_sbox

/-- The other order needs no second check: an injective table of 256 bytes is a permutation of them. -/
@[simp] theorem sbox_invSbox (y : Byte) : sbox (invSbox y) = y :=
  have hsurj : Function.Surjective sbox := Finite.surjective_of_injective sbox_injective
  Function.LeftInverse.rightInverse_of_surjective invSbox_sbox hsurj y

theorem sbox_ne_self : ∀ x : Byte, sbox x ≠ x := by
  decide

theorem sbox_ne_complement : ∀ x : Byte, sbox x ≠ x ^^^ 0xff := by
  decide

/-- Settles O9: the first order is the check of the two tables, the second follows as `sbox` is a permutation. -/
theorem inverseTableInvertsTable : Obligations.InverseTableInvertsTable := fun x =>
  ⟨invSbox_sbox x, sbox_invSbox x, sbox_ne_self x, sbox_ne_complement x⟩

/-! The construction (41_sbox.md R111). -/

/-- The inverse of the affine map. Rotations multiply modulo `x^8 + 1`, where `1 + x + x^2 + x^3 + x^4` has the inverse
`x + x^3 + x^6`; 05 is what the latter makes of 63. -/
def invAffine (c : Byte) : Byte := c.rotateLeft 1 ^^^ c.rotateLeft 3 ^^^ c.rotateLeft 6 ^^^ 0x05

@[simp] theorem affine_invAffine : ∀ c : Byte, affine (invAffine c) = c := by
  decide

/-- Undoing the affine map in the entry of `x` leaves the field inverse of `x`; checked entry by entry. -/
theorem gmul_invAffine_sbox : ∀ x : Byte, x ≠ 0 → gmul x (invAffine (sbox x)) = 1 := by
  decide

/-- Settles O10: the inverse of `x` is read off the table by undoing the affine map. -/
theorem sboxIsAffineOfInverse : Obligations.SboxIsAffineOfInverse :=
  ⟨rfl, fun x hx => ⟨invAffine (sbox x), gmul_invAffine_sbox x hx, (affine_invAffine (sbox x)).symm⟩⟩

end Sys2Proof.Machine

/-! The key schedule (42_key_schedule.md R120 to R125): one byte of each word operation, what the second loop of KeyExpansion
leaves and writes, and the expanded schedule as the solution of the recurrence. -/

namespace Sys2Proof

/-! The bounds of the two loops (00_scope.md R7). -/

theorem KeySize.words_pos (nk : KeySize) : 0 < nk.words := by
  cases nk <;> decide

theorem KeySize.scheduleWords_le (nk : KeySize) : nk.scheduleWords ≤ 60 := by
  cases nk <;> decide

theorem KeySize.words_le (nk : KeySize) : nk.words ≤ 8 := by
  cases nk <;> decide

namespace Machine

/-! Round constants (42_key_schedule.md R123). -/

theorem rcon_succ {j : Nat} (hj : 1 ≤ j) : rcon (j + 1) = xtime (rcon j) := by
  obtain ⟨k, rfl⟩ := Nat.exists_eq_add_of_le' hj
  rfl

/-- Settles O11: the ten values are evaluated, and each later constant is defined as a doubling. -/
theorem roundConstants : Obligations.RoundConstants :=
  ⟨by decide, fun _ => rcon_succ⟩

/-! Round keys (42_key_schedule.md R125). -/

/-- Settles O13: byte `j + 4*c` lies in column `c` and row `j`, and word `4*r + c` is one of the 60. -/
theorem roundKeyIsSliceOfSchedule : Obligations.RoundKeyIsSliceOfSchedule := by
  intro w r c j hr hc hj
  have hcol : (j + 4 * c) / 4 = c := by omega
  have hrow : (j + 4 * c) % 4 = j := by omega
  simp only [getElem_roundKey, hcol, hrow, wordAt_of_lt w (show 4 * r + c < 60 by omega)]

/-! One byte of a word operation (42_key_schedule.md R121, R122, R124). -/

theorem getElem_rotWord (w : Word) (j : Nat) (hj : j < 4) : (rotWord w)[j] = w[(j + 1) % 4]'(by omega) := by
  match j with
  | 0 | 1 | 2 | 3 => rfl

theorem getElem_addRcon (n : Nat) (w : Word) (j : Nat) (hj : j < 4) :
    (addRcon n w)[j] = w[j] ^^^ (if j = 0 then rcon n else 0) := by
  match j with
  | 0 => rfl
  | 1 | 2 | 3 => exact BitVec.xor_zero.symm

theorem getElem_transformed (nk : KeySize) (i : Nat) (prev : Word) (j : Nat) (hj : j < 4) :
    (transformed nk i prev)[j] =
      if i % nk.words = 0 then sbox (prev[(j + 1) % 4]'(by omega)) ^^^ (if j = 0 then rcon (i / nk.words) else 0)
      else if nk = .nk8 ∧ i % nk.words = 4 then sbox prev[j]
      else prev[j] := by
  unfold transformed
  split
  · rw [getElem_addRcon, getElem_subWord, getElem_rotWord]
  · split
    · rw [getElem_subWord]
    · rfl

/-! The loops of KeyExpansion (42_key_schedule.md R124). -/

theorem getElem_wordAt_rootWords {nk : KeySize} (key : Vector Byte (4 * nk.words)) (rest : Schedule) {i j : Nat}
    (hi : i < nk.words) (hj : j < 4) : (wordAt (rootWords nk key rest) i)[j] = key[4 * i + j] := by
  have := nk.words_le
  simp [wordAt_of_lt _ (show i < 60 by omega), rootWords, hi]

/-- A new word is a function of the words before it. -/
theorem newWord_congr {nk : KeySize} {v w : Schedule} {i : Nat} (hi : 0 < i) (h : ∀ k < i, wordAt v k = wordAt w k) :
    newWord nk v i = newWord nk w i := by
  have := nk.words_pos
  rw [newWord, newWord, h (i - nk.words) (by omega), h (i - 1) (by omega)]

/-- The second loop from index `i` on keeps the words before `i`. -/
theorem wordAt_expandFrom_of_lt (nk : KeySize) (n : Nat) (w : Schedule) {i k : Nat} (hk : k < i) (hk60 : k < 60) :
    wordAt (expandFrom nk n i w) k = wordAt w k := by
  induction n generalizing i w with
  | zero => rfl
  | succ n ih => rw [expandFrom, ih _ (by omega), wordAt_setIfInBounds _ _ _ _ hk60, if_neg (by omega)]

/-- Each word that the second loop writes satisfies the recurrence in the finished schedule: the words that it was
computed from are not written again. -/
theorem wordAt_expandFrom (nk : KeySize) (n : Nat) (w : Schedule) {i k : Nat} (hi : 0 < i) (hik : i ≤ k)
    (hkn : k < i + n) (hk60 : k < 60) :
    wordAt (expandFrom nk n i w) k = newWord nk (expandFrom nk n i w) k := by
  induction n generalizing i w with
  | zero => omega
  | succ n ih =>
    obtain rfl | hlt := Nat.eq_or_lt_of_le hik
    · have hkept : ∀ m < i, wordAt w m = wordAt (expandFrom nk (n + 1) i w) m := fun m hm =>
        (wordAt_expandFrom_of_lt nk (n + 1) w hm (by omega)).symm
      calc wordAt (expandFrom nk (n + 1) i w) i
          _ = wordAt (w.setIfInBounds i (newWord nk w i)) i := wordAt_expandFrom_of_lt nk n _ (Nat.lt_succ_self i) hk60
          _ = newWord nk w i := by rw [wordAt_setIfInBounds _ _ _ _ hk60, if_pos rfl]
          _ = newWord nk (expandFrom nk (n + 1) i w) i := newWord_congr hi hkept
    · exact ih _ (Nat.succ_pos i) hlt (by omega)

/-! The expanded schedule. -/

section KeyExpansion

variable {nk : KeySize} (key : Vector Byte (4 * nk.words)) (rest : Schedule)

theorem getElem_wordAt_keyExpansion_root {i j : Nat} (hi : i < nk.words) (hj : j < 4) :
    (wordAt (keyExpansion nk key rest) i)[j] = key[4 * i + j] := by
  have := nk.words_le
  rw [← getElem_wordAt_rootWords key rest hi hj, keyExpansion, wordAt_expandFrom_of_lt nk _ _ hi (by omega)]

theorem wordAt_keyExpansion_new {i : Nat} (hi : nk.words ≤ i) (hlt : i < nk.scheduleWords) :
    wordAt (keyExpansion nk key rest) i = newWord nk (keyExpansion nk key rest) i := by
  have := nk.scheduleWords_le
  exact wordAt_expandFrom nk _ _ nk.words_pos hi (by omega) (by omega)

theorem getElem_wordAt_keyExpansion_new {i j : Nat} (hi : nk.words ≤ i) (hlt : i < nk.scheduleWords) (hj : j < 4) :
    (wordAt (keyExpansion nk key rest) i)[j] = (wordAt (keyExpansion nk key rest) (i - nk.words))[j] ^^^
      (transformed nk i (wordAt (keyExpansion nk key rest) (i - 1)))[j] := by
  rw [wordAt_keyExpansion_new key rest hi hlt, newWord, Word.getElem_xor]

/-- The root words are the key's and each later word is a function of the words before it, so the schedule is the key's
alone. -/
theorem sameKeys_keyExpansion (other : Schedule) :
    sameKeys nk (keyExpansion nk key rest) (keyExpansion nk key other) := by
  intro i
  induction i using Nat.strong_induction_on with
  | h i ih =>
    intro hlt
    by_cases hroot : i < nk.words
    · ext j hj : 1
      rw [getElem_wordAt_keyExpansion_root key rest hroot hj, getElem_wordAt_keyExpansion_root key other hroot hj]
    · have hnew : nk.words ≤ i := Nat.le_of_not_lt hroot
      have hpos : 0 < i := Nat.lt_of_lt_of_le nk.words_pos hnew
      rw [wordAt_keyExpansion_new key rest hnew hlt, wordAt_keyExpansion_new key other hnew hlt,
        newWord_congr hpos fun k hk => ih k hk (hk.trans hlt)]

end KeyExpansion

/-- Settles O12: the first loop writes the key, the second writes words that satisfy the recurrence, and the recurrence
determines them. -/
theorem keyExpansionRecurrence : Obligations.KeyExpansionRecurrence := by
  intro nk key rest
  refine ⟨?_, fun i j hi hj => ?_, fun i j hj hi hlt => ?_, sameKeys_keyExpansion key rest⟩
  · cases nk <;> decide
  · exact getElem_wordAt_keyExpansion_root key rest hi hj
  · dsimp only
    rw [getElem_wordAt_keyExpansion_new key rest hi hlt hj, getElem_transformed]

end Machine

end Sys2Proof

/-! The forward round (43_forward_round.md): each transform column by column, its inverse, and what the micro-ops of FWD
and the whole of Cipher do with them. -/

namespace Sys2Proof

/-! Byte `r + 4*c` of a block is row `r` of column `c` (00_scope.md R11). -/

theorem row_of_index {r : Nat} (hr : r < 4) (c : Nat) : (r + 4 * c) % 4 = r := by omega

theorem column_of_index {r : Nat} (hr : r < 4) (c : Nat) : (r + 4 * c) / 4 = c := by omega

/-- Blocks are equal when they agree in every row and column. -/
theorem Block.ext_of_columns {x y : Block}
    (h : ∀ (r c : Nat) (hr : r < 4) (hc : c < 4), x[r + 4 * c] = y[r + 4 * c]) : x = y := by
  ext i hi : 1
  have hi' := h (i % 4) (i / 4) (by omega) (by omega)
  simpa only [Nat.mod_add_div] using hi'

@[simp] theorem Block.xor_zero (x : Block) : Block.xor x Block.zero = x := by
  ext k hk : 1
  rw [Block.getElem_xor, Block.getElem_zero]
  exact BitVec.xor_zero

namespace Machine

/-! SubBytes (43_forward_round.md R140). -/

@[simp] theorem invSubBytes_subBytes (b : Block) : invSubBytes (subBytes b) = b := by
  ext k hk : 1
  rw [getElem_invSubBytes, getElem_subBytes, invSbox_sbox]

@[simp] theorem subBytes_invSubBytes (b : Block) : subBytes (invSubBytes b) = b := by
  ext k hk : 1
  rw [getElem_subBytes, getElem_invSubBytes, sbox_invSbox]

/-- Settles O14: SB writes S only; the inverse table gives the inverse map; the examples are evaluated. -/
theorem subBytesMeaning : Obligations.SubBytesMeaning :=
  ⟨fun s => ⟨subBytes s.mat, rfl, getElem_subBytes s.mat⟩,
    Function.bijective_iff_has_inverse.mpr ⟨invSubBytes, invSubBytes_subBytes, subBytes_invSubBytes⟩,
    by decide +kernel, by decide +kernel⟩

/-! ShiftRows (43_forward_round.md R141). -/

section Column

variable (b : Block) {r c : Nat} (hr : r < 4) (hc : c < 4)

theorem getElem_shiftRows_column : (shiftRows b)[r + 4 * c] = b[r + 4 * ((c + r) % 4)] := by
  simp only [getElem_shiftRows, row_of_index hr, column_of_index hr]

theorem getElem_invShiftRows_column : (invShiftRows b)[r + 4 * c] = b[r + 4 * ((c + 4 - r) % 4)] := by
  simp only [getElem_invShiftRows, row_of_index hr, column_of_index hr]

end Column

@[simp] theorem invShiftRows_shiftRows (b : Block) : invShiftRows (shiftRows b) = b := by
  refine Block.ext_of_columns fun r c hr hc => ?_
  have hcol : ((c + 4 - r) % 4 + r) % 4 = c := by omega
  simp only [getElem_invShiftRows_column _ hr hc, getElem_shiftRows_column _ hr (Nat.mod_lt _ (by decide)), hcol]

@[simp] theorem shiftRows_invShiftRows (b : Block) : shiftRows (invShiftRows b) = b := by
  refine Block.ext_of_columns fun r c hr hc => ?_
  have hcol : ((c + r) % 4 + 4 - r) % 4 = c := by omega
  simp only [getElem_shiftRows_column _ hr hc, getElem_invShiftRows_column _ hr (Nat.mod_lt _ (by decide)), hcol]

/-- Rotating the rows moves nothing where the columns are equal. -/
theorem shiftRows_of_equal_columns {b : Block}
    (h : ∀ (r c : Nat) (hr : r < 4) (hc : c < 4), b[r + 4 * c] = b[r]) : shiftRows b = b := by
  refine Block.ext_of_columns fun r c hr hc => ?_
  rw [getElem_shiftRows_column b hr hc, h r _ hr (Nat.mod_lt _ (by decide)), h r c hr hc]

/-- Row `r` is rotated by `4 * r`, which is a whole number of turns. -/
theorem shiftRows_four_times (b : Block) : shiftRows (shiftRows (shiftRows (shiftRows b))) = b := by
  refine Block.ext_of_columns fun r c hr hc => ?_
  have hcol : ((((c + r) % 4 + r) % 4 + r) % 4 + r) % 4 = c := by omega
  simp only [getElem_shiftRows_column _ hr hc, getElem_shiftRows_column _ hr (Nat.mod_lt _ (by decide)), hcol]

/-- Settles O15: SR writes S only, and what it does to a block is read off column by column. -/
theorem shiftRowsMeaning : Obligations.ShiftRowsMeaning := by
  refine ⟨fun s => ⟨shiftRows s.mat, rfl, fun r c hr hc => getElem_shiftRows_column s.mat hr hc⟩, fun b c hc => ?_,
    fun b => shiftRows_of_equal_columns, shiftRows_four_times, by decide +kernel⟩
  have hrow := getElem_shiftRows_column b (r := 0) (by decide) hc
  simpa only [Nat.zero_add, Nat.add_zero, Nat.mod_eq_of_lt hc] using hrow

/-! Column mixing (43_forward_round.md R142, 44_inverse_round.md R162), for any matrix. -/

theorem getElem_mixWith_column (m : Matrix4) (b : Block) {r c : Nat} (hr : r < 4) (hc : c < 4) :
    (mixWith m b)[r + 4 * c] = mixByte m[r] b[4 * c] b[4 * c + 1] b[4 * c + 2] b[4 * c + 3] := by
  simp only [getElem_mixWith, row_of_index hr, column_of_index hr]

theorem getElem_mixWith_byte (m : Matrix4) (b : Block) {r c : Nat} (hc : c < 4) (hr : r < 4) :
    (mixWith m b)[4 * c + r] = mixByte m[r] b[4 * c] b[4 * c + 1] b[4 * c + 2] b[4 * c + 3] := by
  simpa only [Nat.add_comm r] using getElem_mixWith_column m b hr hc

@[simp] theorem gmul_zero (a : Byte) : gmul a 0x00 = 0x00 := by
  rw [gmul_comm, zero_gmul]

theorem gmul_assoc (a k l : Byte) : gmul (gmul a k) l = gmul a (gmul k l) :=
  calc gmul (gmul a k) l = gmulFrom 8 (gmul a k) l (gmul a 0x00) := by rw [gmul_zero, gmul]
    _ = gmul a (gmul k l) := (map_gmulFrom (gmul_gadd a) (gmul_xtime a) 8 k l 0x00).symm

theorem mixByte_of_products {row : Vector Byte 4} {a0 a1 a2 a3 x0 x1 x2 x3 : Byte} (h0 : gmul a0 row[0] = x0)
    (h1 : gmul a1 row[1] = x1) (h2 : gmul a2 row[2] = x2) (h3 : gmul a3 row[3] = x3) :
    mixByte row a0 a1 a2 a3 = x0 ^^^ x1 ^^^ x2 ^^^ x3 := by
  rw [mixByte, h0, h1, h2, h3]
  rfl

/-- A row of a matrix times a sum of columns. -/
theorem mixByte_gadd (row : Vector Byte 4) (a0 a1 a2 a3 b0 b1 b2 b3 : Byte) :
    mixByte row (gadd a0 b0) (gadd a1 b1) (gadd a2 b2) (gadd a3 b3) =
      gadd (mixByte row a0 a1 a2 a3) (mixByte row b0 b1 b2 b3) := by
  simp only [mixByte, gadd_gmul, gadd_gadd_gadd_comm]

/-- A row of a matrix times a column of equal bytes is the byte times the sum of the row. -/
theorem mixByte_equal_bytes (row : Vector Byte 4) (v : Byte) :
    mixByte row v v v v = gmul v (mixByte row 0x01 0x01 0x01 0x01) := by
  simp only [mixByte, one_gmul, gmul_gadd]

/-- The product of two column-mixing matrices: its column `c` is column `c` of `n`, mixed with `m`. -/
def Matrix4.mul (m n : Matrix4) : Matrix4 :=
  Vector.ofFn fun r => Vector.ofFn fun c => mixByte m[r] n[0][c] n[1][c] n[2][c] n[3][c]

/-- The unit matrix. -/
def Matrix4.one : Matrix4 := #v[
  #v[0x01, 0x00, 0x00, 0x00],
  #v[0x00, 0x01, 0x00, 0x00],
  #v[0x00, 0x00, 0x01, 0x00],
  #v[0x00, 0x00, 0x00, 0x01]]

/-- Mixing with `n` and then with a row of `m` is mixing with that row of the product. -/
theorem mixByte_mixByte (m n : Matrix4) {r : Nat} (hr : r < 4) (a0 a1 a2 a3 : Byte) :
    mixByte m[r] (mixByte n[0] a0 a1 a2 a3) (mixByte n[1] a0 a1 a2 a3) (mixByte n[2] a0 a1 a2 a3)
      (mixByte n[3] a0 a1 a2 a3) = mixByte (m.mul n)[r] a0 a1 a2 a3 := by
  simp only [mixByte, Matrix4.mul, Vector.getElem_ofFn, Fin.getElem_fin, gadd_gmul, gmul_gadd, gmul_assoc]
  simp only [gadd]
  ac_rfl

theorem mixWith_mixWith (m n : Matrix4) (b : Block) : mixWith m (mixWith n b) = mixWith (m.mul n) b := by
  refine Block.ext_of_columns fun r c hr hc => ?_
  have h0 := getElem_mixWith_byte n b hc (r := 0) (by decide)
  have h1 := getElem_mixWith_byte n b hc (r := 1) (by decide)
  have h2 := getElem_mixWith_byte n b hc (r := 2) (by decide)
  have h3 := getElem_mixWith_byte n b hc (r := 3) (by decide)
  simp only [Nat.add_zero] at h0
  rw [getElem_mixWith_column m _ hr hc, h0, h1, h2, h3, mixByte_mixByte m n hr,
    getElem_mixWith_column (m.mul n) b hr hc]

theorem mixWith_one (b : Block) : mixWith Matrix4.one b = b := by
  refine Block.ext_of_columns fun r c hr hc => ?_
  rw [getElem_mixWith_column _ _ hr hc]
  match r with
  | 0 | 1 | 2 | 3 =>
    simp only [mixByte, Matrix4.one, Vector.getElem_mk, List.getElem_toArray, List.getElem_cons_zero,
      List.getElem_cons_succ, gmul_one, gmul_zero, gadd_zero, zero_gadd, Nat.add_comm _ (4 * c), Nat.add_zero]

theorem mixWith_xor (m : Matrix4) (x y : Block) :
    mixWith m (Block.xor x y) = Block.xor (mixWith m x) (mixWith m y) := by
  refine Block.ext_of_columns fun r c hr hc => ?_
  simp only [Block.getElem_xor, getElem_mixWith_column _ _ hr hc]
  exact mixByte_gadd ..

/-- A matrix whose rows all sum to 01 keeps a column of equal bytes. -/
theorem getElem_mixWith_of_equal_bytes {m : Matrix4}
    (hm : ∀ (r : Nat) (hr : r < 4), mixByte m[r] 0x01 0x01 0x01 0x01 = 0x01) {b : Block} {v : Byte} {c : Nat}
    (hc : c < 4) (hv : ∀ (r : Nat) (hr : r < 4), b[r + 4 * c] = v) {r : Nat} (hr : r < 4) :
    (mixWith m b)[r + 4 * c] = v := by
  have h0 := hv 0 (by decide)
  have h1 := hv 1 (by decide)
  have h2 := hv 2 (by decide)
  have h3 := hv 3 (by decide)
  simp only [Nat.add_comm _ (4 * c), Nat.add_zero] at h0 h1 h2 h3
  rw [getElem_mixWith_column m b hr hc, h0, h1, h2, h3, mixByte_equal_bytes, hm r hr, gmul_one]

/-! MixColumns and InvMixColumns (43_forward_round.md R142, 44_inverse_round.md R162, R166). -/

@[simp] theorem invMixColumns_mixColumns (b : Block) : invMixColumns (mixColumns b) = b := by
  have hunit : Matrix4.mul invMixMatrix mixMatrix = Matrix4.one := by decide +kernel
  rw [invMixColumns, mixColumns, mixWith_mixWith, hunit, mixWith_one]

@[simp] theorem mixColumns_invMixColumns (b : Block) : mixColumns (invMixColumns b) = b := by
  have hunit : Matrix4.mul mixMatrix invMixMatrix = Matrix4.one := by decide +kernel
  rw [mixColumns, invMixColumns, mixWith_mixWith, hunit, mixWith_one]

/-- The rows of M sum to 01. -/
theorem mixMatrix_row_sum (r : Nat) (hr : r < 4) : mixByte mixMatrix[r] 0x01 0x01 0x01 0x01 = 0x01 := by
  revert r
  decide +kernel

/-- Settles O16: MC writes S only, M is multiplied out with the constants 02 and 03 of R104, and the laws are those of
mixing with a matrix whose rows sum to 01 and whose inverse is MI. -/
theorem mixColumnsMeaning : Obligations.MixColumnsMeaning := by
  refine ⟨fun s => ⟨mixColumns s.mat, rfl, fun c hc => ?_⟩,
    fun b v c hc hv r hr => getElem_mixWith_of_equal_bytes mixMatrix_row_sum hc hv hr, mixWith_xor mixMatrix,
    invMixColumns_mixColumns, by decide +kernel⟩
  have hbyte (r : Nat) (hr : r < 4) := getElem_mixWith_byte mixMatrix s.mat hc hr
  refine ⟨(hbyte 0 (by decide)).trans ?_, (hbyte 1 (by decide)).trans ?_, (hbyte 2 (by decide)).trans ?_,
    (hbyte 3 (by decide)).trans ?_⟩
  · exact mixByte_of_products (gmul_two _) (gmul_three _) (gmul_one _) (gmul_one _)
  · exact mixByte_of_products (gmul_one _) (gmul_two _) (gmul_three _) (gmul_one _)
  · exact mixByte_of_products (gmul_one _) (gmul_one _) (gmul_two _) (gmul_three _)
  · exact mixByte_of_products (gmul_three _) (gmul_one _) (gmul_one _) (gmul_two _)

/-! AddRoundKey (43_forward_round.md R143). -/

@[simp] theorem addRoundKey_addRoundKey (w : Schedule) (r : Nat) (b : Block) :
    addRoundKey w r (addRoundKey w r b) = b :=
  Block.xor_xor_self b (roundKey w r)

theorem exec_ark_of_le {r : BitVec 4} {s : State} (hr : r.toNat ≤ s.nr) :
    exec (.ark r) s = .next (s.withMat (addRoundKey s.w r.toNat s.mat)) :=
  if_pos hr

theorem getElem_addRoundKey_column (w : Schedule) (r : Nat) (b : Block) {j c : Nat} (hj : j < 4) (hc : c < 4) :
    (addRoundKey w r b)[j + 4 * c] = b[j + 4 * c] ^^^ (wordAt w (4 * r + c))[j] := by
  simp only [getElem_addRoundKey, getElem_roundKey, row_of_index hj, column_of_index hj]

/-- Settles O17: ARK writes S only, XOR with a round key undoes itself, and the example's key decides its round keys
whatever the unused words hold. -/
theorem addRoundKeyMeaning : Obligations.AddRoundKeyMeaning := by
  refine ⟨fun r s hr => ⟨_, exec_ark_of_le hr, fun j c hj hc => getElem_addRoundKey_column s.w _ s.mat hj hc⟩,
    fun w r b hzero => ?_, addRoundKey_addRoundKey, fun rest => ?_⟩
  · rw [addRoundKey, hzero, Block.xor_zero]
  · refine (addRoundKey_congr (sameKeys_keyExpansion _ rest State.reset.w) (Nat.zero_le _) _).trans ?_
    decide +kernel

/-! The microprograms (43_forward_round.md R145, 44_inverse_round.md R165). -/

/-- Settles O22: the listings are evaluated; the lengths hold for every number of rounds. -/
theorem microprogramListings : Obligations.MicroprogramListings := by
  refine ⟨by decide +kernel, by decide +kernel, fun nk => ?_⟩
  have hrounds : 1 ≤ nk.rounds := by cases nk <;> decide
  exact ⟨length_fwdProgram hrounds, length_invProgram hrounds⟩

/-- Settles O23: the rounds of each pipeline are run by the segments of its microprogram. -/
theorem microprogramsRunTheCiphers : Obligations.MicroprogramsRunTheCiphers := fun s =>
  ⟨runMicroOps_fwdProgram s, runMicroOps_invProgram s⟩

/-! Cipher and its inverse (43_forward_round.md R144, 44_inverse_round.md R164, R166). -/

section Pipelines

variable (w : Schedule)

theorem forwardRounds_succ (n r : Nat) (b : Block) :
    forwardRounds w (n + 1) r b = forwardRound w (r + n) (forwardRounds w n r b) := by
  induction n generalizing r b with
  | zero => rfl
  | succ n ih => rw [forwardRounds, ih, forwardRounds, Nat.add_right_comm, Nat.add_assoc]

/-- The middle steps of InvCipher undo the middle rounds of Cipher: each pair leaves the SubBytes and ShiftRows of the
round before. -/
theorem inverseRounds_forwardRounds (n : Nat) (b : Block) :
    inverseRounds w n (shiftRows (subBytes (forwardRounds w n 1 b))) = shiftRows (subBytes b) := by
  induction n with
  | zero => rfl
  | succ n ih =>
    rw [forwardRounds_succ, inverseRounds, forwardRound, Nat.add_comm 1 n, inverseRound]
    simp [ih]

/-- The middle rounds of Cipher undo the middle steps of InvCipher. -/
theorem forwardRounds_inverseRounds (n : Nat) (b : Block) :
    forwardRounds w n 1 (invSubBytes (invShiftRows (inverseRounds w n b))) = invSubBytes (invShiftRows b) := by
  induction n generalizing b with
  | zero => rfl
  | succ n ih =>
    rw [forwardRounds_succ, inverseRounds, ih, forwardRound, Nat.add_comm 1 n, inverseRound]
    simp

@[simp] theorem invCipher_cipher (nr : Nat) (b : Block) : invCipher w nr (cipher w nr b) = b := by
  simp [invCipher, cipher, inverseRounds_forwardRounds]

@[simp] theorem cipher_invCipher (nr : Nat) (b : Block) : cipher w nr (invCipher w nr b) = b := by
  simp [invCipher, cipher, forwardRounds_inverseRounds]

end Pipelines

/-- Settles O26: the intermediate states are those after `r` middle rounds; InvCipher is the inverse on both sides; the
known answer does not depend on the unused words. -/
theorem cipherStructure : Obligations.CipherStructure := by
  refine ⟨fun w nr x _ => ⟨fun r => forwardRounds w r 1 (addRoundKey w 0 x), rfl, fun r hr _ => ?_, rfl⟩,
    fun w nr _ => ⟨?_, invCipher_cipher w nr⟩, fun rest => ?_⟩
  · obtain ⟨n, rfl⟩ := Nat.exists_eq_add_of_le' hr
    exact (forwardRounds_succ w n 1 _).trans (by rw [Nat.add_comm 1 n]; rfl)
  · exact Function.bijective_iff_has_inverse.mpr ⟨invCipher w nr, invCipher_cipher w nr, cipher_invCipher w nr⟩
  · refine (cipher_congr (sameKeys_keyExpansion _ rest State.reset.w) _).trans ?_
    decide +kernel

end Machine

end Sys2Proof

/-! The inverse round (44_inverse_round.md): the micro-ops of INV, and the laws of R166. The inverse laws of the transforms
and of the pipelines stand with the forward round. -/

namespace Sys2Proof.Machine

/-! InvShiftRows (44_inverse_round.md R160). -/

/-- R160 from the source's side: the byte of row `r` moves `r` columns to the right. -/
theorem getElem_invShiftRows_rotated (b : Block) {r c : Nat} (hr : r < 4) (hc : c < 4) :
    (invShiftRows b)[r + 4 * ((c + r) % 4)]'(by omega) = b[r + 4 * c] := by
  have hcol : ((c + r) % 4 + 4 - r) % 4 = c := by omega
  simp only [getElem_invShiftRows_column b hr (Nat.mod_lt (c + r) (by decide)), hcol]

/-- Settles O18: ISR writes S only, and what it does to a block is read off column by column. -/
theorem invShiftRowsMeaning : Obligations.InvShiftRowsMeaning := by
  refine ⟨fun s => ⟨invShiftRows s.mat, rfl, fun r c hr hc => getElem_invShiftRows_rotated s.mat hr hc⟩,
    fun b c hc => ?_, fun b => ⟨invShiftRows_shiftRows b, shiftRows_invShiftRows b⟩, by decide +kernel⟩
  have hrow := getElem_invShiftRows_rotated b (r := 0) (by decide) hc
  simpa only [Nat.zero_add, Nat.add_zero, Nat.mod_eq_of_lt hc] using hrow

/-! InvSubBytes (44_inverse_round.md R161). -/

/-- The substitution is the same at every place, so moving the bytes before or after it makes no difference. -/
theorem invSubBytes_invShiftRows (b : Block) : invSubBytes (invShiftRows b) = invShiftRows (invSubBytes b) := by
  ext k hk : 1
  rw [getElem_invSubBytes, getElem_invShiftRows, getElem_invShiftRows, getElem_invSubBytes]

/-- Settles O19: ISB writes S only; the examples are evaluated. -/
theorem invSubBytesMeaning : Obligations.InvSubBytesMeaning :=
  ⟨fun s => ⟨invSubBytes s.mat, rfl, getElem_invSubBytes s.mat⟩, by decide +kernel, invSubBytes_subBytes,
    invSubBytes_invShiftRows, by decide +kernel⟩

/-! InvMixColumns (44_inverse_round.md R162, R166). -/

/-- The rows of MI sum to 01. -/
theorem invMixMatrix_row_sum (r : Nat) (hr : r < 4) : mixByte invMixMatrix[r] 0x01 0x01 0x01 0x01 = 0x01 := by
  revert r
  decide +kernel

/-- Settles O20: IMC writes S only, each byte of a column is a row of MI times the old column, and the laws are those of
mixing with a matrix whose rows sum to 01. -/
theorem invMixColumnsMeaning : Obligations.InvMixColumnsMeaning := by
  refine ⟨fun s => ⟨invMixColumns s.mat, rfl, fun c hc => ?_⟩,
    fun b v c hc hv r hr => getElem_mixWith_of_equal_bytes invMixMatrix_row_sum hc hv hr, mixWith_xor invMixMatrix,
    fun b hb => ?_⟩
  · have hbyte (r : Nat) (hr : r < 4) := getElem_mixWith_byte invMixMatrix s.mat hc hr
    exact ⟨hbyte 0 (by decide), hbyte 1 (by decide), hbyte 2 (by decide), hbyte 3 (by decide)⟩
  · obtain ⟨h0, h1, h2, h3⟩ : b[0] = 0x8e ∧ b[1] = 0x4d ∧ b[2] = 0xa1 ∧ b[3] = 0xbc := by
      simpa only [Prod.mk.injEq] using hb
    have hbyte (r : Nat) (hr : r < 4) :
        (invMixColumns b)[r] = mixByte invMixMatrix[r] 0x8e 0x4d 0xa1 0xbc := by
      rw [← h0, ← h1, ← h2, ← h3]
      exact getElem_mixWith_column invMixMatrix b (c := 0) hr (by decide)
    dsimp only
    rw [hbyte 0 (by decide), hbyte 1 (by decide), hbyte 2 (by decide), hbyte 3 (by decide)]
    decide +kernel

/-- Settles O25: MI and M are inverse matrices. -/
theorem mixColumnsAndItsInverse : Obligations.MixColumnsAndItsInverse := fun b =>
  ⟨invMixColumns_mixColumns b, mixColumns_invMixColumns b⟩

/-! Cipher and InvCipher (44_inverse_round.md R166). -/

/-- Settles O24: each pipeline undoes the other round by round, whatever the schedule. -/
theorem invCipherInvertsCipher : Obligations.InvCipherInvertsCipher := fun w nr x _ =>
  ⟨invCipher_cipher w nr x, cipher_invCipher w nr x⟩

end Sys2Proof.Machine

/-! When a command's accesses are all answered (20_memory.md R51, R52), and what INIT does then (45_cbc_commands.md
R181). -/

namespace Sys2Proof.Machine

/-! Regions that the memory answers. -/

/-- A run of addresses inside an answered region is answered. -/
theorem refusedAt_of_answers {p : Params} {g : Region} (h : answers p g) {x n : Nat} (hlo : g.base ≤ x)
    (hhi : x + n ≤ g.base + g.size) : p.refusedAt x n = none :=
  Params.refusedAt_eq_none.mpr fun _ hle hlt => h _ (Region.has_iff.mpr ⟨by omega, by omega⟩)

/-- A memory without holes answers every region in range. -/
theorem answers_of_no_holes {p : Params} (hholes : p.holes = []) {g : Region} (hrange : p.inRange g = true) :
    answers p g := by
  intro x hx
  have hin := Region.has_iff.mp hx
  have hend := Params.inRange_iff.mp hrange
  exact Params.admits_iff.mpr ⟨by omega, by simp [hholes]⟩

theorem BufferReady.checked {s : State} {a len : Word32} (h : BufferReady s a len) : bufferError s a len = none := by
  obtain ⟨hvalid, hwhole, hrange, -⟩ := h
  exact bufferError_eq_none.mpr ⟨hvalid, hwhole, hrange⟩

theorem BufferReady.blocks_answered {s : State} {a len : Word32} (h : BufferReady s a len) :
    s.params.refusedAt (blockAddr a 0) (16 * blockCount len) = none := by
  obtain ⟨-, -, -, hans⟩ := h
  exact refusedAt_of_answers hans (Nat.le_refl _) (Nat.add_le_add_left (Nat.mul_div_le _ _) _)

/-! INIT. -/

theorem initInRange_eq_true {s : State} {nk : KeySize} {a b : Word32} :
    initInRange s nk a b = true ↔
      s.params.inRange (keyRegion nk a) = true ∧ s.params.inRange (ivRegion b) = true := by
  simp [initInRange]

theorem execInit_of_ready {ksz : BitVec 2} {nk : KeySize} {a b : Word32} {s : State} (hk : keySizeOf ksz = some nk)
    (h : InitReady s nk a b) :
    execInit ksz a b s =
      .next (s.loadContext nk (initSchedule s nk (s.mem.bytes a.toNat (4 * nk.words)))
        (s.mem.bytes b.toNat 16)).complete := by
  obtain ⟨hkey, hiv, hkeyAns, hivAns⟩ := h
  have hkeyRead : s.params.refusedAt a.toNat (4 * nk.words) = none :=
    refusedAt_of_answers hkeyAns (Nat.le_refl _) (Nat.le_refl _)
  have hivRead : s.params.refusedAt b.toNat 16 = none := refusedAt_of_answers hivAns (Nat.le_refl _) (Nat.le_refl _)
  rw [execInit_of_inRange hk (initInRange_eq_true.mpr ⟨hkey, hiv⟩), readThen_of_answered hkeyRead,
    readThen_of_answered hivRead]

theorem execInit_of_bounds {ksz : BitVec 2} {nk : KeySize} {a b : Word32} {s : State} (hk : keySizeOf ksz = some nk)
    (hrange : initInRange s nk a b = false) : execInit ksz a b s = .next (s.raiseError .bounds) := by
  simp [execInit, hk, hrange]

/-- Settles O27: INIT's three ends; the schedule's used words do not depend on what the unused ones hold. -/
theorem initLoadsTheContext : Obligations.InitLoadsTheContext := by
  refine ⟨fun ksz nk a b s hk hready => ?_, fun a b s => ?_, fun ksz nk a b s hk hout => ?_⟩
  · exact ⟨_, _, execInit_of_ready hk hready, sameKeys_keyExpansion _ _⟩
  · exact ⟨_, execInit_of_keyLen (ksz := 3) rfl a b s, rfl, rfl, rfl, rfl⟩
  · have hrange : initInRange s nk a b = false := by
      rcases hout with hkey | hiv <;> simp [initInRange, *]
    exact ⟨_, execInit_of_bounds hk hrange, rfl, rfl, rfl, rfl⟩

end Sys2Proof.Machine

/-! One block, and no block (45_cbc_commands.md R184, R185, R190). -/

namespace Sys2Proof.Machine

/-- Settles O29: the updates of an answered EncBlock, written out. -/
theorem encBlockStep : Obligations.EncBlockStep := by
  intro s a hans
  simp only [encBlock_of_answered hans, encrypted, State.withMat, State.withMem, State.withCv]

/-- Settles O30: the updates of an answered DecBlock, written out. -/
theorem decBlockStep : Obligations.DecBlockStep := by
  intro s a hans
  simp only [decBlock_of_answered hans, decrypted, State.withSave, State.withMat, State.withMem, State.withCv]

theorem bufferCommand_of_empty {f : Nat → State → Result} {a : Word32} {s : State} (hvalid : s.ctxValid = true) :
    bufferCommand f a 0 s = .next s.complete := by
  have hchecks : bufferError s a 0 = none :=
    bufferError_eq_none.mpr ⟨hvalid, rfl, Params.inRange_iff.mpr (.inl rfl)⟩
  rw [bufferCommand_of_checked hchecks]
  rfl

/-- Settles O33: the checks pass on an empty buffer, and there is no block to run. -/
theorem emptyBufferChangesNothing : Obligations.EmptyBufferChangesNothing := fun _ _ hvalid =>
  ⟨bufferCommand_of_empty hvalid, bufferCommand_of_empty hvalid⟩

end Sys2Proof.Machine

/-! The step that runs an issued command or a supplied micro-op (45_cbc_commands.md R180; log 1, log 10, log 14). -/

namespace Sys2Proof.Machine

theorem step_of_issue {s : State} {d : Descriptor} {rest : List Input} (hidle : s.phase = .idle)
    (hinputs : s.inputs = .issue d :: rest) : step s = runCommand d (s.withInputs rest) := by
  simp only [step, takeTurn, idleTurn, hidle, hinputs]

theorem step_of_micro {s : State} {u : Byte} {rest : List Input} (hidle : s.phase = .idle)
    (hinputs : s.inputs = .micro u :: rest) : step s = runMicroOp u (s.withInputs rest) := by
  simp only [step, takeTurn, idleTurn, hidle, hinputs]

theorem runCommand_of_decoded {d : Descriptor} {i : Instr} (h : decodeCommand d = .instr i) (s : State) :
    runCommand d s = exec i (s.issued d) := by
  simp only [runCommand, h]

theorem runMicroOp_of_decoded {u : Byte} {i : Instr} (h : decodeMicroOp u = .instr i) (s : State) :
    runMicroOp u s = exec i s := by
  simp only [runMicroOp, h]

theorem decode_of_decodeTableWord {nbits w : Nat} {i : Instr} (h : decodeTableWord nbits w = some i) :
    decode (tableCode nbits w) = .instr i := by
  unfold decodeTableWord at h
  split at h <;> cases h
  assumption

/-- Settles O48: the turn while IDLE, the decoder's answer, and the code that `withFetchWord` makes the next input. -/
theorem stepRunsTheDecodedInstruction : Obligations.StepRunsTheDecodedInstruction := by
  refine ⟨fun s d rest i hidle hinputs hd => ?_, fun s u rest i hidle hinputs hu => ?_, fun s w i h => ?_,
    fun s nbits w i hbits h => ?_⟩
  · rw [step_of_issue hidle hinputs, runCommand_of_decoded hd]
    rfl
  · rw [step_of_micro hidle hinputs, runMicroOp_of_decoded hu]
    rfl
  · have hd := decode_of_decodeTableWord h
    rw [State.withFetchWord, step_of_micro rfl rfl, runMicroOp_of_decoded hd]
    rfl
  · have hd := decode_of_decodeTableWord h
    have hcode : tableCode nbits w = .command _ := if_neg hbits
    rw [hcode] at hd
    rw [State.withFetchWord, hcode, step_of_issue rfl rfl, runCommand_of_decoded hd]
    rfl

end Sys2Proof.Machine

/-! INIT, ENC and DEC end when the memory answers (45_cbc_commands.md R180, 70_reset_and_hazards.md R258). -/

namespace Sys2Proof.Machine

/-! The host's script. -/

theorem sameSession_of_eachBlock {f : Nat → State → Result} (hf : ∀ x, InCommand (f x)) {a : Word32} {n j : Nat}
    {s t : State} (h : eachBlock f a n j s = .next t) : SameSession s t :=
  eachBlock_keeps (P := SameSession s) (fun v p hv => hv.trans (sameSession_withSeq v p))
    (fun x _ _ hw hv => hv.trans ((hf x).session hw)) _ _ _ _ h (SameSession.refl s)

theorem inputs_of_bufferCommand {f : Nat → State → Result} (hf : ∀ x, InCommand (f x)) {a len : Word32} {s t : State}
    (h : bufferCommand f a len s = .next t) : t.inputs = s.inputs := by
  cases hchecks : bufferError s a len with
  | some c =>
    cases (bufferCommand_of_error hchecks).symm.trans h
    rfl
  | none =>
    rw [bufferCommand_of_checked hchecks] at h
    obtain ⟨u, hu, ht⟩ := andThen_eq_next.mp h
    cases ht
    rw [finishBlocks_inputs, (sameSession_of_eachBlock hf hu).inputs]

theorem inputs_of_runCommand {d : Descriptor} {s t : State} (h : runCommand d s = .next t) : t.inputs = s.inputs := by
  change t.inputs = (s.issued d).inputs
  unfold runCommand at h
  rcases decodeCommand_cases d with ⟨ksz, a, b, hd⟩ | ⟨a, len, hd⟩ | ⟨a, len, hd⟩ | ⟨r, hd⟩ <;> rw [hd] at h
  · exact inputs_of_execInit h
  · exact inputs_of_bufferCommand InCommand.encBlock h
  · exact inputs_of_bufferCommand InCommand.decBlock h
  · cases h
    rfl

/-! Completion. -/

section Rewrites

variable {f : Nat → State → Result} {out chain : State → Block → Block} (hf : Rewrites f out chain)

include hf

/-- The loop runs to its end when the memory answers its blocks. -/
theorem Rewrites.eachBlock_of_answered {a : Word32} {n j : Nat} {s : State}
    (h : s.params.refusedAt (blockAddr a j) (16 * n) = none) : ∃ t, eachBlock f a n j s = .next t := by
  induction n generalizing j s with
  | zero => exact ⟨s, rfl⟩
  | succ n ih =>
    rw [Nat.mul_succ, Nat.add_comm, Params.refusedAt_add, Option.or_eq_none_iff, ← blockAddr_succ] at h
    obtain ⟨hblock, hrest⟩ := h
    obtain ⟨t, ht, -, -⟩ := hf.answered hblock
    rw [← ((hf.inCommand _).session ht).params] at hrest
    rw [eachBlock, ht, andThen_next]
    exact ih hrest

/-- A ready buffer: the checks pass, the loop runs, and the command responds. -/
theorem Rewrites.bufferCommand_of_ready {a len : Word32} {s : State} (h : BufferReady s a len) :
    ∃ t, eachBlock f a (blockCount len) 0 s = .next t ∧
      bufferCommand f a len s = .next (finishBlocks (blockCount len) t) := by
  obtain ⟨t, ht⟩ := hf.eachBlock_of_answered h.blocks_answered
  exact ⟨t, ht, by rw [bufferCommand_of_checked h.checked, ht, andThen_next]⟩

theorem Rewrites.bufferCommand_of_no_holes {s : State} (hholes : s.params.holes = []) (a len : Word32) :
    ∃ t, bufferCommand f a len s = .next t := by
  cases hchecks : bufferError s a len with
  | some c => exact ⟨_, bufferCommand_of_error hchecks⟩
  | none =>
    obtain ⟨hvalid, hwhole, hrange⟩ := bufferError_eq_none.mp hchecks
    obtain ⟨t, -, ht⟩ := hf.bufferCommand_of_ready ⟨hvalid, hwhole, hrange, answers_of_no_holes hholes hrange⟩
    exact ⟨_, ht⟩

end Rewrites

theorem execInit_of_no_holes {s : State} (hholes : s.params.holes = []) (ksz : BitVec 2) (a b : Word32) :
    ∃ t, execInit ksz a b s = .next t := by
  cases hk : keySizeOf ksz with
  | none => exact ⟨_, execInit_of_keyLen hk a b s⟩
  | some nk =>
    cases hrange : initInRange s nk a b with
    | false => exact ⟨_, execInit_of_bounds hk hrange⟩
    | true =>
      obtain ⟨hkey, hiv⟩ := initInRange_eq_true.mp hrange
      exact ⟨_, execInit_of_ready hk
        ⟨hkey, hiv, answers_of_no_holes hholes hkey, answers_of_no_holes hholes hiv⟩⟩

theorem runCommand_of_no_holes {s : State} (hholes : s.params.holes = []) (d : Descriptor) :
    ∃ t, runCommand d s = .next t := by
  have hholes' : (s.issued d).params.holes = [] := hholes
  unfold runCommand
  rcases decodeCommand_cases d with ⟨ksz, a, b, hd⟩ | ⟨a, len, hd⟩ | ⟨a, len, hd⟩ | ⟨r, hd⟩ <;> rw [hd]
  · exact execInit_of_no_holes hholes' ksz a b
  · exact rewrites_encBlock.bufferCommand_of_no_holes hholes' a len
  · exact rewrites_decBlock.bufferCommand_of_no_holes hholes' a len
  · exact ⟨_, rfl⟩

/-- Settles O42: each command ends in an error or makes only accesses in range, which a memory without holes answers. -/
theorem answeredCommandsEnd : Obligations.AnsweredCommandsEnd := by
  intro s d rest hidle hinputs hholes
  obtain ⟨t, ht⟩ := runCommand_of_no_holes (s := s.withInputs rest) hholes d
  exact ⟨t, (step_of_issue hidle hinputs).trans ht, (ended_of_runCommand ht).idle, inputs_of_runCommand ht⟩

end Sys2Proof.Machine

/-! The closed forms of ENC and DEC (45_cbc_commands.md R182, R183). -/

namespace Sys2Proof.Machine

@[simp] theorem finishBlocks_phase (n : Nat) (s : State) : (finishBlocks n s).phase = .idle := by cases n <;> rfl
@[simp] theorem finishBlocks_cur (n : Nat) (s : State) : (finishBlocks n s).cur = s.cur := by cases n <;> rfl
@[simp] theorem finishBlocks_save (n : Nat) (s : State) : (finishBlocks n s).save = s.save := by cases n <;> rfl
@[simp] theorem finishBlocks_params (n : Nat) (s : State) : (finishBlocks n s).params = s.params := by cases n <;> rfl
@[simp] theorem finishBlocks_seen (n : Nat) (s : State) : (finishBlocks n s).seen = s.seen := by cases n <;> rfl

/-! SAVE and what the host has read. -/

theorem encBlock_leaves {x : Nat} {s t : State} (h : encBlock x s = .next t) : t.save = s.save ∧ t.seen = s.seen := by
  cases hans : s.params.refusedAt x 16 with
  | some y => cases (rewrites_encBlock.refused hans).symm.trans h
  | none =>
    obtain rfl := Host.Outcome.next.inj ((encBlock_of_answered hans).symm.trans h)
    simp

theorem seen_of_decBlock {x : Nat} {s t : State} (h : decBlock x s = .next t) : t.seen = s.seen := by
  cases hans : s.params.refusedAt x 16 with
  | some y => cases (rewrites_decBlock.refused hans).symm.trans h
  | none =>
    obtain rfl := Host.Outcome.next.inj ((decBlock_of_answered hans).symm.trans h)
    simp

/-! The chaining value along a buffer. -/

/-- `out` goes by the key size, the schedule and CV, and by nothing else in the state. -/
def ReadsContext (out : State → Block → Block) : Prop :=
  ∀ {s u : State}, u.nk = s.nk → u.w = s.w → u.cv = s.cv → out u = out s

theorem readsContext_encrypted : ReadsContext encrypted := fun hnk hw hcv => by
  funext b
  rw [encrypted, encrypted, State.nr, State.nr, hnk, hw, hcv]

theorem readsContext_decrypted : ReadsContext decrypted := fun hnk hw hcv => by
  funext b
  rw [decrypted, decrypted, State.nr, State.nr, hnk, hw, hcv]

/-- Inside a command only CV moves. -/
theorem ReadsContext.of_session {out : State → Block → Block} (h : ReadsContext out) {s u : State}
    (hsu : SameSession s u) : out u = out (s.withCv u.cv) :=
  h hsu.nk hsu.w rfl

/-- The chaining value that meets block `j` of the buffer at `a`, with `s` the state at issue. -/
def chainAt (chain : State → Block → Block) (s : State) (a : Word32) : Nat → Block
  | 0 => s.cv
  | j + 1 => chain (s.withCv (chainAt chain s a j)) (blockOfBuffer s.mem a j)

/-- What the loop has done after the first `n` blocks of the buffer at `a`. -/
structure Processed (out chain : State → Block → Block) (s : State) (a : Word32) (n : Nat) (t : State) : Prop where
  session : SameSession s t
  canonical : t.mem.wf = true
  cv : t.cv = chainAt chain s a n
  blocks : ∀ j < n, blockOfBuffer t.mem a j = out (s.withCv (chainAt chain s a j)) (blockOfBuffer s.mem a j)
  later : ∀ x, blockAddr a n ≤ x → t.mem.read x = s.mem.read x

/-- The response of ENC or DEC on a ready buffer: the closed form, and what is left alone. -/
structure BufferResult (out chain : State → Block → Block) (s : State) (a len : Word32) (t : State) : Prop where
  status : t.status = 0x00
  phase : t.phase = .idle
  ctxValid : t.ctxValid = true
  nk : t.nk = s.nk
  w : t.w = s.w
  cur : t.cur = s.cur
  params : t.params = s.params
  inputs : t.inputs = s.inputs
  canonical : t.mem.wf = true
  cv : t.cv = chainAt chain s a (blockCount len)
  blocks : ∀ j < blockCount len,
    blockOfBuffer t.mem a j = out (s.withCv (chainAt chain s a j)) (blockOfBuffer s.mem a j)
  outside : ∀ x, (bufRegion a len).has x = false → t.mem.read x = s.mem.read x

theorem blockOfBuffer_writeBytes_other (m : Memory) (a : Word32) {i j : Nat} (h : i ≠ j) (b : Block) :
    blockOfBuffer (m.writeBytes (blockAddr a j) b.toList) a i = blockOfBuffer m a i := by
  ext k hk : 1
  simp only [blockOfBuffer, Memory.getElem_bytes]
  exact Memory.read_writeBytes_other _ _ _ (by simp only [blockAddr, Vector.length_toList]; omega)

section Rewrites

variable {f : Nat → State → Result} {out chain : State → Block → Block} (hf : Rewrites f out chain)

include hf

theorem Rewrites.of_next {x : Nat} {s t : State} (h : f x s = .next t) :
    t.mem = s.mem.writeBytes x (out s (s.mem.bytes x 16)).toList ∧ t.cv = chain s (s.mem.bytes x 16) := by
  cases hans : s.params.refusedAt x 16 with
  | some y => cases (hf.refused hans).symm.trans h
  | none =>
    obtain ⟨u, hu, hmem, hcv⟩ := hf.answered hans
    cases hu.symm.trans h
    exact ⟨hmem, hcv⟩

variable (hout : ReadsContext out) (hchain : ReadsContext chain)

include hout hchain

/-- One block more. -/
theorem Rewrites.processed_succ {s u t : State} {a : Word32} {n : Nat} (h : Processed out chain s a n u)
    (ht : f (blockAddr a n) u = .next t) : Processed out chain s a (n + 1) t := by
  obtain ⟨hmem, hcv⟩ := hf.of_next ht
  have hread : u.mem.bytes (blockAddr a n) 16 = blockOfBuffer s.mem a n := by
    ext k hk : 1
    simp only [blockOfBuffer, Memory.getElem_bytes]
    exact h.later _ (Nat.le_add_right _ _)
  rw [hread, hout.of_session h.session, h.cv] at hmem
  rw [hread, hchain.of_session h.session, h.cv] at hcv
  refine ⟨h.session.trans ((hf.inCommand _).session ht), ?_, hcv, fun j hj => ?_, fun x hx => ?_⟩
  · rw [hmem]
    exact Memory.wf_writeBytes h.canonical _ _
  · rw [hmem]
    by_cases hlast : j = n
    · subst hlast
      exact Memory.bytes_writeBytes h.canonical _ _
    · rw [blockOfBuffer_writeBytes_other _ _ hlast, h.blocks j (by omega)]
  · rw [blockAddr_succ] at hx
    rw [hf.mem_outside ht (.inr hx), h.later x (by omega)]

theorem Rewrites.processed_of_eachBlock {a : Word32} {n : Nat} {s t : State} (hs : s.mem.wf = true)
    (h : eachBlock f a n 0 s = .next t) : Processed out chain s a n t := by
  induction n generalizing t with
  | zero =>
    cases h
    exact ⟨SameSession.refl s, hs, rfl, nofun, fun _ _ => rfl⟩
  | succ n ih =>
    rw [eachBlock_add] at h
    obtain ⟨u, hu, h⟩ := andThen_eq_next.mp h
    rw [Nat.zero_add] at h
    obtain ⟨v, hv, ht⟩ := andThen_eq_next.mp h
    cases ht
    obtain ⟨hsession, hcanonical, hcv, hblocks, hlater⟩ := hf.processed_succ hout hchain (ih hu) hv
    exact ⟨hsession.trans (sameSession_withSeq _ _), hcanonical, hcv, hblocks, hlater⟩

/-- ENC or DEC of a ready buffer: its loop and its response. -/
theorem Rewrites.result_of_ready {a len : Word32} {s : State} (hs : s.mem.wf = true) (h : BufferReady s a len) :
    ∃ u, eachBlock f a (blockCount len) 0 s = .next u ∧
      bufferCommand f a len s = .next (finishBlocks (blockCount len) u) ∧
      BufferResult out chain s a len (finishBlocks (blockCount len) u) := by
  obtain ⟨u, hu, ht⟩ := hf.bufferCommand_of_ready h
  obtain ⟨hsession, hcanonical, hcv, hblocks, -⟩ := hf.processed_of_eachBlock hout hchain hs hu
  obtain ⟨hvalid, -⟩ := h
  exact ⟨u, hu, ht, {
    status := finishBlocks_status _ _
    phase := finishBlocks_phase _ _
    ctxValid := (finishBlocks_ctxValid _ _).trans (hsession.ctxValid.trans hvalid)
    nk := (finishBlocks_nk _ _).trans hsession.nk
    w := (finishBlocks_w _ _).trans hsession.w
    cur := (finishBlocks_cur _ _).trans hsession.cur
    params := (finishBlocks_params _ _).trans hsession.params
    inputs := (finishBlocks_inputs _ _).trans hsession.inputs
    canonical := by rwa [finishBlocks_mem]
    cv := (finishBlocks_cv _ _).trans hcv
    blocks := by rwa [finishBlocks_mem]
    outside := fun _ => hf.bufferCommand_mem_outside ht }⟩

end Rewrites

/-- ENC chains the block that it has just written. -/
theorem BufferResult.chainAt_encrypted {s t : State} {a len : Word32} (h : BufferResult encrypted encrypted s a len t)
    {j : Nat} (hj : j ≤ blockCount len) : chainAt encrypted s a j = chainInto s.cv t.mem a j := by
  cases j with
  | zero => rfl
  | succ j => exact (h.blocks j hj).symm

/-- DEC chains the block that it has just read. -/
theorem chainAt_ciphertext (s : State) (a : Word32) (j : Nat) :
    chainAt (fun _ b => b) s a j = chainInto s.cv s.mem a j := by
  cases j <;> rfl

/-- The closed form of ENC (45_cbc_commands.md R182). -/
theorem BufferResult.encrypted_block {s t : State} {a len : Word32} (h : BufferResult encrypted encrypted s a len t)
    {j : Nat} (hj : j < blockCount len) :
    blockOfBuffer t.mem a j = cipher s.w s.nr (Block.xor (blockOfBuffer s.mem a j) (chainInto s.cv t.mem a j)) := by
  rw [← h.chainAt_encrypted (Nat.le_of_lt hj)]
  exact h.blocks j hj

/-- The closed form of DEC (45_cbc_commands.md R183). -/
theorem BufferResult.decrypted_block {s t : State} {a len : Word32}
    (h : BufferResult decrypted (fun _ b => b) s a len t) {j : Nat} (hj : j < blockCount len) :
    blockOfBuffer t.mem a j = Block.xor (invCipher s.w s.nr (blockOfBuffer s.mem a j)) (chainInto s.cv s.mem a j) := by
  rw [← chainAt_ciphertext]
  exact h.blocks j hj

theorem BufferResult.encrypted_cv {s t : State} {a len : Word32} (h : BufferResult encrypted encrypted s a len t) :
    t.cv = chainInto s.cv t.mem a (blockCount len) :=
  h.cv.trans (h.chainAt_encrypted (Nat.le_refl _))

theorem BufferResult.decrypted_cv {s t : State} {a len : Word32}
    (h : BufferResult decrypted (fun _ b => b) s a len t) : t.cv = chainInto s.cv s.mem a (blockCount len) :=
  h.cv.trans (chainAt_ciphertext s a _)

theorem execEnc_of_ready {a len : Word32} {s : State} (hs : s.mem.wf = true) (h : BufferReady s a len) :
    ∃ t, execEnc a len s = .next t ∧ BufferResult encrypted encrypted s a len t ∧ t.save = s.save ∧
      t.seen = s.seen := by
  obtain ⟨u, hu, ht, hres⟩ := rewrites_encBlock.result_of_ready readsContext_encrypted readsContext_encrypted hs h
  refine ⟨_, ht, hres, ?_⟩
  rw [finishBlocks_save, finishBlocks_seen]
  refine eachBlock_keeps (P := fun v => v.save = s.save ∧ v.seen = s.seen) (fun _ _ => id) (fun x v w hw hv => ?_)
    _ _ _ _ hu ⟨rfl, rfl⟩
  obtain ⟨hsave, hseen⟩ := encBlock_leaves hw
  exact ⟨hsave.trans hv.1, hseen.trans hv.2⟩

theorem execDec_of_ready {a len : Word32} {s : State} (hs : s.mem.wf = true) (h : BufferReady s a len) :
    ∃ t, execDec a len s = .next t ∧ BufferResult decrypted (fun _ b => b) s a len t ∧ t.seen = s.seen := by
  obtain ⟨u, hu, ht, hres⟩ := rewrites_decBlock.result_of_ready readsContext_decrypted (fun _ _ _ => rfl) hs h
  refine ⟨_, ht, hres, (finishBlocks_seen _ _).trans ?_⟩
  exact eachBlock_keeps (P := fun v => v.seen = s.seen) (fun _ _ => id)
    (fun x v w hw hv => (seen_of_decBlock hw).trans hv) _ _ _ _ hu rfl

/-- Settles O31: each block that ENC has written chains to the next. -/
theorem encryptsTheBuffer : Obligations.EncryptsTheBuffer := by
  intro s a len hs hready
  obtain ⟨t, ht, h, hsave, hseen⟩ := execEnc_of_ready hs hready
  exact ⟨t, ht, h.status, h.phase, h.ctxValid, fun _ => h.encrypted_block, h.encrypted_cv, h.outside, h.nk, h.w, hsave,
    h.cur, h.params, h.inputs, hseen⟩

/-- Settles O32: each block that DEC has read chains to the next. -/
theorem decryptsTheBuffer : Obligations.DecryptsTheBuffer := by
  intro s a len hs hready
  obtain ⟨t, ht, h, hseen⟩ := execDec_of_ready hs hready
  exact ⟨t, ht, h.status, h.phase, h.ctxValid, fun _ => h.decrypted_block, h.decrypted_cv, h.outside, h.nk, h.w,
    h.cur, h.params, h.inputs, hseen⟩

end Sys2Proof.Machine

/-! A buffer in two calls (45_cbc_commands.md R186). -/

namespace Sys2Proof.Machine

/-- The two states hold the same context, parameters and memory; S, SAVE, SEQ and the response may differ. -/
structure SameWork (s u : State) : Prop where
  ctxValid : u.ctxValid = s.ctxValid
  nk : u.nk = s.nk
  w : u.w = s.w
  cv : u.cv = s.cv
  params : u.params = s.params
  mem : u.mem = s.mem

theorem SameWork.withSeq {s u : State} (h : SameWork s u) (p q : SeqPos) : SameWork (s.withSeq p) (u.withSeq q) :=
  ⟨h.ctxValid, h.nk, h.w, h.cv, h.params, h.mem⟩

theorem sameWork_finishBlocks (n : Nat) (s : State) : SameWork s (finishBlocks n s) := by
  constructor <;> simp

section Rewrites

variable {f : Nat → State → Result} {out chain : State → Block → Block} (hf : Rewrites f out chain)
  (hout : ReadsContext out) (hchain : ReadsContext chain)

include hf hout hchain

theorem Rewrites.block_sameWork {s u : State} (h : SameWork s u) (x : Nat) : EndAlike SameWork (f x s) (f x u) := by
  cases hans : s.params.refusedAt x 16 with
  | some y => exact .inr ⟨_, hf.refused hans, hf.refused (h.params ▸ hans)⟩
  | none =>
    obtain ⟨t, ht, htmem, htcv⟩ := hf.answered hans
    obtain ⟨v, hv, hvmem, hvcv⟩ := hf.answered (h.params ▸ hans)
    have hst := (hf.inCommand x).session ht
    have huv := (hf.inCommand x).session hv
    rw [h.mem, hout h.nk h.w h.cv] at hvmem
    rw [h.mem, hchain h.nk h.w h.cv] at hvcv
    exact .inl ⟨t, v, ht, hv, {
      ctxValid := by rw [huv.ctxValid, hst.ctxValid, h.ctxValid]
      nk := by rw [huv.nk, hst.nk, h.nk]
      w := by rw [huv.w, hst.w, h.w]
      cv := hvcv.trans htcv.symm
      params := by rw [huv.params, hst.params, h.params]
      mem := hvmem.trans htmem.symm }⟩

/-- The loop over the same addresses, however they are split into buffer and block number. -/
theorem Rewrites.eachBlock_sameWork {a a' : Word32} {n j j' : Nat}
    (haddr : ∀ k < n, blockAddr a (j + k) = blockAddr a' (j' + k)) {s u : State} (h : SameWork s u) :
    EndAlike SameWork (eachBlock f a n j s) (eachBlock f a' n j' u) := by
  induction n generalizing j j' s u with
  | zero => exact EndAlike.next h
  | succ n ih =>
    have hfirst : blockAddr a j = blockAddr a' j' := haddr 0 n.succ_pos
    have hrest (k : Nat) (hk : k < n) : blockAddr a (j + 1 + k) = blockAddr a' (j' + 1 + k) := by
      simpa only [Nat.add_assoc, Nat.add_comm 1] using haddr (k + 1) (Nat.succ_lt_succ hk)
    rw [eachBlock, eachBlock, ← hfirst]
    rcases hf.block_sameWork hout hchain h (blockAddr a j) with ⟨t, v, ht, hv, htv⟩ | ⟨e, hs, hu⟩
    · rw [ht, hv, andThen_next, andThen_next]
      exact ih hrest (htv.withSeq _ _)
    · exact .inr ⟨e, by rw [hs, andThen_fault], by rw [hu, andThen_fault]⟩

end Rewrites

/-- A ready buffer of `l` bytes in two parts, of `l1` and `l2` bytes. -/
structure Split (s : State) (a l1 l2 l : Word32) : Prop where
  wf : s.params.wf
  ready : BufferReady s a l
  first : l1.toNat % 16 = 0
  second : l2.toNat % 16 = 0
  sum : l.toNat = l1.toNat + l2.toNat

namespace Split

variable {s : State} {a l1 l2 l : Word32} (h : Split s a l1 l2 l)

include h

theorem blockCount_eq : blockCount l = blockCount l1 + blockCount l2 := by
  have := h.first
  have := h.sum
  unfold blockCount
  omega

theorem ctxValid : s.ctxValid = true := by
  obtain ⟨hvalid, -⟩ := h.ready
  exact hvalid

theorem buffer_end (hl : l.toNat ≠ 0) : a.toNat + l.toNat ≤ 2 ^ s.params.addrWidth := by
  obtain ⟨-, -, hrange, -⟩ := h.ready
  exact (Params.inRange_iff.mp hrange).resolve_left hl

theorem checked_first : bufferError s a l1 = none := by
  refine bufferError_eq_none.mpr ⟨h.ctxValid, h.first, Params.inRange_iff.mpr ?_⟩
  have := h.sum
  have := h.buffer_end
  simp only [bufRegion]
  omega

/-- The second part begins where the first ends: no address wraps, unless the second part is empty. -/
theorem toNat_second (hl2 : l2.toNat ≠ 0) : (a + l1).toNat = a.toNat + l1.toNat := by
  have hsum := h.sum
  have hend := h.buffer_end (by omega)
  have hspace : 2 ^ s.params.addrWidth ≤ 2 ^ 32 := Nat.pow_le_pow_right (by decide) h.wf.2
  rw [BitVec.toNat_add, Nat.mod_eq_of_lt (by omega)]

theorem checked_second : bufferError s (a + l1) l2 = none := by
  refine bufferError_eq_none.mpr ⟨h.ctxValid, h.second, Params.inRange_iff.mpr ?_⟩
  by_cases hl2 : l2.toNat = 0
  · exact .inl hl2
  · refine .inr ?_
    have := h.sum
    have := h.buffer_end (by omega)
    have := h.toNat_second hl2
    simp only [bufRegion]
    omega

theorem blockAddr_second {k : Nat} (hk : k < blockCount l2) :
    blockAddr a (blockCount l1 + k) = blockAddr (a + l1) k := by
  have := h.first
  have := h.toNat_second (by unfold blockCount at hk; omega)
  simp only [blockAddr, blockCount]
  omega

end Split

section Rewrites

variable {f : Nat → State → Result} {out chain : State → Block → Block} (hf : Rewrites f out chain)
  (hout : ReadsContext out) (hchain : ReadsContext chain)

include hf hout hchain

/-- The loop over the whole buffer is the two loops of the calls; the first response changes nothing that the second
call goes by. -/
theorem Rewrites.bufferCommand_split {s : State} {a l1 l2 l : Word32} (h : Split s a l1 l2 l) :
    ∃ t u v, bufferCommand f a l1 s = .next t ∧ bufferCommand f (a + l1) l2 t = .next u ∧
      bufferCommand f a l s = .next v ∧ u.mem = v.mem ∧ u.cv = v.cv ∧ u.w = v.w ∧ u.nk = v.nk ∧
      u.status = v.status ∧ u.ctxValid = v.ctxValid := by
  obtain ⟨v, hv, hwhole⟩ := hf.bufferCommand_of_ready h.ready
  rw [h.blockCount_eq, eachBlock_add, Nat.zero_add] at hv
  obtain ⟨t, ht, hrest⟩ := andThen_eq_next.mp hv
  have hcall1 : bufferCommand f a l1 s = .next (finishBlocks (blockCount l1) t) := by
    rw [bufferCommand_of_checked h.checked_first, ht, andThen_next]
  have hsession := sameSession_of_eachBlock hf.inCommand ht
  have hchecks : bufferError (finishBlocks (blockCount l1) t) (a + l1) l2 = none := by
    rw [← h.checked_second, ← hsession.bufferError]
    exact bufferError_congr (finishBlocks_ctxValid _ _) (finishBlocks_params _ _) _ _
  have haddr (k : Nat) (hk : k < blockCount l2) : blockAddr a (blockCount l1 + k) = blockAddr (a + l1) (0 + k) := by
    rw [Nat.zero_add, h.blockAddr_second hk]
  rcases hf.eachBlock_sameWork hout hchain haddr (sameWork_finishBlocks (blockCount l1) t) with
    ⟨v', u, hv', hu, hsame⟩ | ⟨e, he, -⟩
  · cases hrest.symm.trans hv'
    refine ⟨_, finishBlocks (blockCount l2) u, _, hcall1, ?_, hwhole, ?_⟩
    · rw [bufferCommand_of_checked hchecks, hu, andThen_next]
    · simpa using ⟨hsame.mem, hsame.cv, hsame.w, hsame.nk, hsame.ctxValid⟩
  · cases hrest.symm.trans he

end Rewrites

/-- Settles O43: the loop of ENC splits where the buffer does. -/
theorem encContinuesAcrossCalls : Obligations.EncContinuesAcrossCalls :=
  fun _ _ _ _ _ hwf hready h1 h2 hsum =>
    rewrites_encBlock.bufferCommand_split readsContext_encrypted readsContext_encrypted ⟨hwf, hready, h1, h2, hsum⟩

/-- Settles O44: the loop of DEC splits where the buffer does. -/
theorem decContinuesAcrossCalls : Obligations.DecContinuesAcrossCalls :=
  fun _ _ _ _ _ hwf hready h1 h2 hsum =>
    rewrites_decBlock.bufferCommand_split readsContext_decrypted (fun _ _ _ => rfl) ⟨hwf, hready, h1, h2, hsum⟩

end Sys2Proof.Machine

/-! Decrypting what was encrypted (45_cbc_commands.md R187, R188). -/

namespace Sys2Proof.Machine

/-- Bytes of a region that is apart from the buffer are as they were. -/
theorem bytes_of_apart {m m' : Memory} {g h : Region} (hapart : apart g h)
    (houtside : ∀ x, g.has x = false → m'.read x = m.read x) {x n : Nat} (hlo : h.base ≤ x)
    (hhi : x + n ≤ h.base + h.size) : m'.bytes x n = m.bytes x n := by
  ext k hk : 1
  have hin : h.has (x + k) = true := Region.has_iff.mpr ⟨by omega, by omega⟩
  rw [Memory.getElem_bytes, Memory.getElem_bytes]
  exact houtside _ (Bool.eq_false_iff.mpr fun hg => hapart _ ⟨hg, hin⟩)

/-- Every byte of a buffer of whole blocks is in one of its blocks. -/
theorem read_eq_of_blocks {m m' : Memory} {a len : Word32} (hwhole : len.toNat % 16 = 0)
    (hblocks : ∀ j < blockCount len, blockOfBuffer m' a j = blockOfBuffer m a j) {x : Nat}
    (hx : (bufRegion a len).has x = true) : m'.read x = m.read x := by
  have hin : a.toNat ≤ x ∧ x < a.toNat + len.toNat := Region.has_iff.mp hx
  have hblock : (x - a.toNat) / 16 < blockCount len := by unfold blockCount; omega
  have hk : (x - a.toNat) % 16 < 16 := Nat.mod_lt _ (by decide)
  have hbyte : blockAddr a ((x - a.toNat) / 16) + (x - a.toNat) % 16 = x := by simp only [blockAddr]; omega
  have hread := congrArg (fun b : Block => b[(x - a.toNat) % 16]) (hblocks _ hblock)
  simpa only [blockOfBuffer, Memory.getElem_bytes, hbyte] using hread

/-- A canonical memory is the same when the buffer's blocks and every byte outside the buffer are. -/
theorem mem_eq_of_blocks {m m' : Memory} {a len : Word32} (hm : m.wf = true) (hm' : m'.wf = true)
    (hwhole : len.toNat % 16 = 0) (hblocks : ∀ j < blockCount len, blockOfBuffer m' a j = blockOfBuffer m a j)
    (houtside : ∀ x, (bufRegion a len).has x = false → m'.read x = m.read x) : m' = m :=
  Memory.eq_of_read_eq hm' hm fun x => by
    cases hx : (bufRegion a len).has x with
    | false => exact houtside x hx
    | true => exact read_eq_of_blocks hwhole hblocks hx

/-- DEC from the same key size, round keys and chaining value undoes ENC, block by block. -/
theorem BufferResult.decrypts {s t s' t' : State} {a len : Word32} (henc : BufferResult encrypted encrypted s a len t)
    (hdec : BufferResult decrypted (fun _ b => b) s' a len t') (hmem : s'.mem = t.mem) (hnk : s'.nk = s.nk)
    (hkeys : sameKeys s.nk s'.w s.w) (hcv : s'.cv = s.cv) {j : Nat} (hj : j < blockCount len) :
    blockOfBuffer t'.mem a j = blockOfBuffer s.mem a j := by
  rw [hdec.decrypted_block hj, hmem, hcv, henc.encrypted_block hj, State.nr, State.nr, hnk, invCipher_congr hkeys,
    invCipher_cipher, Block.xor_xor_self]

/-- What a successful INIT leaves (45_cbc_commands.md R181), as far as a later command goes by it. -/
structure ContextLoaded (s : State) (nk : KeySize) (k v : Word32) (t : State) : Prop where
  ctxValid : t.ctxValid = true
  keySize : t.nk = nk
  keys : ∀ rest, sameKeys nk t.w (keyExpansion nk (s.mem.bytes k.toNat (4 * nk.words)) rest)
  cv : t.cv = s.mem.bytes v.toNat 16
  params : t.params = s.params
  mem : t.mem = s.mem

theorem execInit_loads {ksz : BitVec 2} {nk : KeySize} {k v : Word32} {s : State} (hk : keySizeOf ksz = some nk)
    (h : InitReady s nk k v) : ∃ t, execInit ksz k v s = .next t ∧ ContextLoaded s nk k v t :=
  ⟨_, execInit_of_ready hk h, rfl, rfl, sameKeys_keyExpansion _ _, rfl, rfl, rfl⟩

/-- Two INITs that read the same key bytes leave the same round keys. -/
theorem ContextLoaded.sameKeys {s t s' t' : State} {nk : KeySize} {k v : Word32} (h : ContextLoaded s nk k v t)
    (h' : ContextLoaded s' nk k v t')
    (hkey : s'.mem.bytes k.toNat (4 * nk.words) = s.mem.bytes k.toNat (4 * nk.words)) : sameKeys nk t'.w t.w :=
  fun i hi => by rw [h'.keys t.w i hi, h.keys t.w i hi, hkey]

/-- Settles O45: ENC leaves the key and the IV, so the second INIT loads the same context, and DEC undoes each block. -/
theorem decryptOfEncryptIsThePlaintext : Obligations.DecryptOfEncryptIsThePlaintext := by
  intro s ksz nk k v a len hs hk hinit hwhole hrange hans hkey hiv
  obtain ⟨s1, hinit1, h1⟩ := execInit_loads hk hinit
  obtain ⟨s2, henc, h2, -, -⟩ := execEnc_of_ready (a := a) (len := len) (s := s1) (h1.mem ▸ hs)
    ⟨h1.ctxValid, hwhole, h1.params ▸ hrange, h1.params ▸ hans⟩
  have hparams : s2.params = s.params := h2.params.trans h1.params
  have houtside (x : Nat) (hx : (bufRegion a len).has x = false) : s2.mem.read x = s.mem.read x :=
    (h2.outside x hx).trans (by rw [h1.mem])
  have hkeyBytes : s2.mem.bytes k.toNat (4 * nk.words) = s.mem.bytes k.toNat (4 * nk.words) :=
    bytes_of_apart hkey houtside (Nat.le_refl _) (Nat.le_refl _)
  have hivBytes : s2.mem.bytes v.toNat 16 = s.mem.bytes v.toNat 16 :=
    bytes_of_apart hiv houtside (Nat.le_refl _) (Nat.le_refl _)
  have hready3 : InitReady s2 nk k v := by
    unfold InitReady
    rwa [hparams]
  obtain ⟨s3, hinit2, h3⟩ := execInit_loads hk hready3
  have hparams3 : s3.params = s.params := h3.params.trans hparams
  obtain ⟨s4, hdec, h4, -⟩ := execDec_of_ready (a := a) (len := len) (s := s3) (h3.mem ▸ h2.canonical)
    ⟨h3.ctxValid, hwhole, hparams3 ▸ hrange, hparams3 ▸ hans⟩
  have hcv : s3.cv = s1.cv := by rw [h3.cv, h1.cv, hivBytes]
  have hkeys : sameKeys s1.nk s3.w s1.w := h1.keySize ▸ h1.sameKeys h3 hkeyBytes
  have hblocks (j : Nat) (hj : j < blockCount len) : blockOfBuffer s4.mem a j = blockOfBuffer s.mem a j := by
    rw [h2.decrypts h4 h3.mem (h3.keySize.trans h1.keySize.symm) hkeys hcv hj, h1.mem]
  have hmem : s4.mem = s.mem := mem_eq_of_blocks hs h4.canonical hwhole hblocks fun x hx => by
    rw [h4.outside x hx, h3.mem, houtside x hx]
  refine ⟨s1, s2, s3, s4, hinit1, henc, hinit2, hdec, h2.status, h4.status, hmem, ?_, ?_⟩
  · rw [← h1.cv]
    exact h2.encrypted_cv
  · rw [h4.decrypted_cv, h2.encrypted_cv, h3.mem, hcv]

end Sys2Proof.Machine

/-! Error propagation (45_cbc_commands.md R189). -/

namespace Sys2Proof.Machine

theorem Block.xor_left_injective (y : Block) : Function.Injective fun x => Block.xor x y :=
  Function.LeftInverse.injective (g := fun x => Block.xor x y) fun x => Block.xor_xor_self x y

theorem invCipher_injective (w : Schedule) (nr : Nat) : Function.Injective (invCipher w nr) :=
  Function.LeftInverse.injective (cipher_invCipher w nr)

/-- `m` is `n` with bit `b` of byte `q` of block `i` flipped. -/
def Flipped (a : Word32) (i q b : Nat) (n m : Memory) : Prop :=
  ∀ x, m.read x = if x = blockAddr a i + q then n.read x ^^^ (1#8 <<< b) else n.read x

namespace Flipped

variable {a : Word32} {i q b : Nat} {n m : Memory} (h : Flipped a i q b n m)

include h

/-- The flip, seen in the block. -/
theorem getElem_block (k : Nat) (hk : k < 16) :
    (blockOfBuffer m a i)[k] = (blockOfBuffer n a i)[k] ^^^ (if k = q then 1#8 <<< b else 0) := by
  simp only [blockOfBuffer, Memory.getElem_bytes, h (blockAddr a i + k), Nat.add_left_cancel_iff]
  split
  · rfl
  · exact BitVec.xor_zero.symm

theorem block_of_ne (hq : q < 16) {j : Nat} (hj : j ≠ i) : blockOfBuffer m a j = blockOfBuffer n a j := by
  ext k hk : 1
  have hother : blockAddr a j + k ≠ blockAddr a i + q := by simp only [blockAddr]; omega
  simp only [blockOfBuffer, Memory.getElem_bytes, h (blockAddr a j + k), if_neg hother]

theorem block_ne (hq : q < 16) (hb : b < 8) : blockOfBuffer m a i ≠ blockOfBuffer n a i := by
  intro heq
  have hbyte := h.getElem_block q hq
  rw [heq, if_pos rfl] at hbyte
  have hbit : 1#8 <<< b ≠ 0 := by interval_cases b <;> decide
  exact hbit (xor_left_eq_self_iff.mp hbyte.symm)

theorem chainInto_of_ne (hq : q < 16) (cv : Block) {j : Nat} (hj : j ≠ i + 1) :
    chainInto cv m a j = chainInto cv n a j := by
  cases j with
  | zero => rfl
  | succ j => exact h.block_of_ne hq fun hji => hj (congrArg (· + 1) hji)

end Flipped

/-- Settles O46: InvCipher of the flipped block is another block, and the flip passes through the XOR with it. -/
theorem oneFlippedBitSpoilsTwoBlocks : Obligations.OneFlippedBitSpoilsTwoBlocks := by
  intro s m a len i q b hs hm hready hi hq hb hflip
  have hf : Flipped a i q b s.mem m := hflip
  obtain ⟨t, ht, h, -⟩ := execDec_of_ready hs hready
  obtain ⟨u, hu, h', -⟩ := execDec_of_ready (s := s.withMem m) hm hready
  have hblock (j : Nat) (hj : j < blockCount len) : blockOfBuffer u.mem a j =
      Block.xor (invCipher s.w s.nr (blockOfBuffer m a j)) (chainInto s.cv m a j) := h'.decrypted_block hj
  have hchain := hf.chainInto_of_ne hq s.cv (Nat.ne_of_lt i.lt_succ_self)
  refine ⟨t, u, ht, hu, fun j hj hother => ?_, ?_, fun heq => ?_, fun hnext k hk => ?_, h'.decrypted_cv⟩
  · rw [hblock j hj, h.decrypted_block hj, hf.block_of_ne hq (by omega), hf.chainInto_of_ne hq s.cv (by omega)]
  · rw [hblock i hi, hchain]
  · rw [hblock i hi, h.decrypted_block hi, hchain] at heq
    exact hf.block_ne hq hb (invCipher_injective _ _ (Block.xor_left_injective _ heq))
  · have hin : chainInto s.cv m a (i + 1) = blockOfBuffer m a i := rfl
    have hin' : chainInto s.cv s.mem a (i + 1) = blockOfBuffer s.mem a i := rfl
    rw [hblock _ hnext, h.decrypted_block hnext, hf.block_of_ne hq (Nat.ne_of_gt i.lt_succ_self), hin,
      hin', Block.getElem_xor, Block.getElem_xor, hf.getElem_block k hk, BitVec.xor_assoc]

end Sys2Proof.Machine

namespace Sys2Proof.Machine

/-! Padding on the host (46_padding_host.md R210, R211): the number of pad bytes, and the three branches of Pad. -/

theorem padLen_eq_sixteen_iff (l : Nat) : padLen l = 16 ↔ l % 16 = 0 := by
  unfold padLen; omega

theorem one_le_padLen (l : Nat) : 1 ≤ padLen l := by
  unfold padLen; omega

theorem padLen_le_sixteen (l : Nat) : padLen l ≤ 16 :=
  Nat.sub_le 16 _

theorem add_padLen_mod (l : Nat) : (l + padLen l) % 16 = 0 := by
  unfold padLen; omega

/-- The policy is only about an aligned text. -/
theorem pad_of_unaligned (policy : PadPolicy) {p : List Byte} (h : p.length % 16 ≠ 0) :
    pad policy p = p ++ List.replicate (padLen p.length) (BitVec.ofNat 8 (padLen p.length)) :=
  if_pos h

theorem pad_fullBlock_of_aligned {p : List Byte} (h : p.length % 16 = 0) :
    pad .fullBlock p = p ++ List.replicate 16 0x10 :=
  if_neg (not_not_intro h)

theorem pad_none_of_aligned {p : List Byte} (h : p.length % 16 = 0) : pad .none p = p :=
  if_neg (not_not_intro h)

theorem length_pad_mod (policy : PadPolicy) (p : List Byte) : (pad policy p).length % 16 = 0 := by
  by_cases h : p.length % 16 = 0
  · cases policy with
    | fullBlock => rw [pad_fullBlock_of_aligned h, List.length_append, List.length_replicate, Nat.add_mod_right, h]
    | none => rw [pad_none_of_aligned h, h]
  · rw [pad_of_unaligned policy h, List.length_append, List.length_replicate, add_padLen_mod]

/-- Settles O60: each branch of Pad by its rule; the example, 14 bytes, is evaluated in the unaligned branch. -/
theorem paddingFillsTheLastBlock : Obligations.PaddingFillsTheLastBlock := by
  refine ⟨fun l => ⟨rfl, one_le_padLen l, padLen_le_sixteen l, padLen_eq_sixteen_iff l⟩,
    fun policy p => ⟨length_pad_mod policy p, fun h => ⟨padLen p.length, rfl, pad_of_unaligned policy h⟩,
      fun h => ⟨pad_fullBlock_of_aligned h, pad_none_of_aligned h⟩⟩, fun policy => ?_⟩
  have hlength : (hexBytes 14 0x00112233445566778899aabbccdd).toList.length % 16 ≠ 0 := by decide
  rw [pad_of_unaligned policy hlength]
  decide

end Sys2Proof.Machine

/-! Which error a command ends with, and the two ends of a command (60_exceptions.md R220 to R229). -/

namespace Sys2Proof.Machine

/-! The codes and the error entry. -/

/-- Settles O36: the table, and `statusByte_le` for the bound. -/
theorem statusCodes : Obligations.StatusCodes := ⟨rfl, rfl, rfl, rfl, rfl, rfl, statusByte_le⟩

/-- Every code but OK is one of 1 to 5. -/
theorem one_le_statusByte {c : StatusCode} (hc : c ≠ .ok) : 1 ≤ (statusByte c).toNat := by
  cases c with
  | ok => exact absurd rfl hc
  | illegal | keyLen | noCtx | misaligned | bounds => decide

theorem getElem_freeBlock (n k : Nat) (hk : k < 16) : (freeBlock n)[k] = Config.freeByte (n + k) := by
  simp [freeBlock, freeBytes]

theorem getElem_freeSchedule (n i j : Nat) (hi : i < 60) (hj : j < 4) :
    ((freeSchedule n)[i])[j] = Config.freeByte (n + 4 * i + j) := by
  simp [freeSchedule, freeBytes]

/-- Settles O35: the free values byte by byte; every other field is written out in the update. -/
theorem errorEntry : Obligations.ErrorEntry := fun s _ =>
  ⟨rfl, rfl, rfl, rfl, rfl, getElem_freeSchedule s.draws,
    fun k hk => ⟨getElem_freeBlock _ k hk, getElem_freeBlock _ k hk, getElem_freeBlock _ k hk⟩,
    rfl, rfl, rfl, rfl, rfl⟩

/-! The order of the checks (R227). -/

theorem bufferError_of_noCtx {s : State} (hctx : s.ctxValid = false) (a len : Word32) :
    bufferError s a len = some .noCtx := by
  simp [bufferError, hctx]

theorem bufferError_of_misaligned {s : State} {len : Word32} (hctx : s.ctxValid = true) (hlen : len.toNat % 16 ≠ 0)
    (a : Word32) : bufferError s a len = some .misaligned := by
  simp [bufferError, hctx, hlen]

theorem bufferError_of_bounds {s : State} {a len : Word32} (hctx : s.ctxValid = true) (hlen : len.toNat % 16 = 0)
    (hrange : s.params.inRange (bufRegion a len) = false) : bufferError s a len = some .bounds := by
  simp [bufferError, hctx, hlen, hrange]

theorem runCommand_of_rejected {d : Descriptor} {r : Reject} (h : decodeCommand d = .rejected r) (s : State) :
    runCommand d s = .next ((s.issued d).raiseError .illegal) := by
  simp only [runCommand, h, execIllegal]

/-- An ENC or DEC whose checks fail ends with the code of the first that does. -/
theorem runCommand_of_bufferError {d : Descriptor} {a len : Word32} {s : State} {c : StatusCode}
    (hbuf : HasBuffer d a len) (h : bufferError (s.issued d) a len = some c) :
    runCommand d s = .next ((s.issued d).raiseError c) := by
  rcases hbuf with hd | hd <;> exact (runCommand_of_decoded hd s).trans (bufferCommand_of_error h)

/-- Settles O34: the decoder's answer first, then INIT's key size and regions, or the checks of ENC and DEC in turn. -/
theorem errorsInTheOrderOfChecks : Obligations.ErrorsInTheOrderOfChecks := by
  intro s d rest hidle hinputs u
  rw [step_of_issue hidle hinputs]
  refine ⟨fun ⟨r, hr⟩ => runCommand_of_rejected hr _, fun hd => ?_, fun ksz nk hd hk hout => ?_, fun hbuf =>
    ⟨fun hctx => ?_, fun hctx hlen => ?_, fun hctx hlen hrange => ?_⟩⟩
  · exact (runCommand_of_decoded hd _).trans (execInit_of_keyLen (ksz := 3) rfl d.a d.b u)
  · have hrange : initInRange u nk d.a d.b = false := Bool.and_eq_false_iff.mpr hout
    exact (runCommand_of_decoded hd _).trans (execInit_of_bounds hk hrange)
  · exact runCommand_of_bufferError hbuf (bufferError_of_noCtx hctx _ _)
  · exact runCommand_of_bufferError hbuf (bufferError_of_misaligned hctx hlen _)
  · exact runCommand_of_bufferError hbuf (bufferError_of_bounds hctx hlen hrange)

/-- Settles O38: without a context a command that is no INIT is rejected, or fails its first check. -/
theorem onlyInitOpensASession : Obligations.OnlyInitOpensASession := by
  intro s d rest hidle hinputs hctx hinit
  have hnoCtx (a len : Word32) : bufferError ((s.withInputs rest).issued d) a len = some .noCtx :=
    bufferError_of_noCtx hctx a len
  rw [step_of_issue hidle hinputs]
  rcases decodeCommand_cases d with ⟨ksz, a, b, hd⟩ | ⟨a, len, hd⟩ | ⟨a, len, hd⟩ | ⟨r, hd⟩
  · exact absurd hd (hinit ksz a b)
  · exact ⟨_, runCommand_of_bufferError (.inl hd) (hnoCtx a len), rfl, .inr rfl, rfl⟩
  · exact ⟨_, runCommand_of_bufferError (.inr hd) (hnoCtx a len), rfl, .inr rfl, rfl⟩
  · exact ⟨_, runCommand_of_rejected hd _, rfl, .inl rfl, rfl⟩

/-! The command in CUR and the host's script (10_state.md R30; 70_reset_and_hazards.md R254). -/

/-- No command has been taken up in between, and no input. -/
structure KeepsCommand (s t : State) : Prop where
  cur : t.cur = s.cur
  inputs : t.inputs = s.inputs

theorem SameSession.keepsCommand {s t : State} (h : SameSession s t) : KeepsCommand s t := ⟨h.cur, h.inputs⟩

theorem keepsCommand_raiseError (s : State) (c : StatusCode) : KeepsCommand s (s.raiseError c) := ⟨rfl, rfl⟩

theorem SameSession.keepsCommand_finishBlocks {s u : State} (h : SameSession s u) (n : Nat) :
    KeepsCommand s (finishBlocks n u) :=
  ⟨(finishBlocks_cur n u).trans h.cur, (finishBlocks_inputs n u).trans h.inputs⟩

/-! The end of a command (R220, R228; 70_reset_and_hazards.md R259). -/

/-- A command's two ends: an error entry, or OK with a valid context. -/
inductive Responded (s t : State) : Prop
  | error (c : StatusCode) (notOk : c ≠ .ok) (eq : t = s.raiseError c)
  | ok (status : t.status = statusByte .ok) (ctxValid : t.ctxValid = true) (keeps : KeepsCommand s t)

theorem Responded.keepsCommand {s t : State} (h : Responded s t) : KeepsCommand s t := by
  cases h with
  | error c _ heq => exact heq ▸ keepsCommand_raiseError s c
  | ok _ _ hkeeps => exact hkeeps

theorem bufferError_ne_ok {s : State} {a len : Word32} {c : StatusCode} (h : bufferError s a len = some c) :
    c ≠ .ok := by
  unfold bufferError at h
  split_ifs at h <;> cases h <;> nofun

theorem responded_of_execInit {ksz : BitVec 2} {a b : Word32} {s t : State} (h : execInit ksz a b s = .next t) :
    Responded s t := by
  cases hk : keySizeOf ksz with
  | none =>
    cases (execInit_of_keyLen hk a b s).symm.trans h
    exact .error .keyLen nofun rfl
  | some nk =>
    cases hrange : initInRange s nk a b with
    | false =>
      cases (execInit_of_bounds hk hrange).symm.trans h
      exact .error .bounds nofun rfl
    | true =>
      rw [execInit_of_inRange hk hrange] at h
      obtain ⟨-, h⟩ := readThen_eq_next.mp h
      obtain ⟨-, h⟩ := readThen_eq_next.mp h
      cases h
      exact .ok rfl rfl ⟨rfl, rfl⟩

theorem responded_of_bufferCommand {f : Nat → State → Result} (hf : ∀ x, InCommand (f x)) {a len : Word32}
    {s t : State} (h : bufferCommand f a len s = .next t) : Responded s t := by
  cases hchecks : bufferError s a len with
  | some c =>
    cases (bufferCommand_of_error hchecks).symm.trans h
    exact .error c (bufferError_ne_ok hchecks) rfl
  | none =>
    obtain ⟨hctx, -⟩ := bufferError_eq_none.mp hchecks
    rw [bufferCommand_of_checked hchecks] at h
    obtain ⟨u, hu, ht⟩ := andThen_eq_next.mp h
    cases ht
    have hsu := sameSession_of_eachBlock hf hu
    exact .ok (finishBlocks_status _ _) ((finishBlocks_ctxValid _ _).trans (hsu.ctxValid.trans hctx))
      (hsu.keepsCommand_finishBlocks _)

theorem responded_of_execIllegal {s t : State} (h : execIllegal s = .next t) : Responded s t := by
  cases h
  exact .error .illegal nofun rfl

theorem responded_of_runCommand {d : Descriptor} {s t : State} (h : runCommand d s = .next t) :
    Responded (s.issued d) t := by
  unfold runCommand at h
  rcases decodeCommand_cases d with ⟨ksz, a, b, hd⟩ | ⟨a, len, hd⟩ | ⟨a, len, hd⟩ | ⟨r, hd⟩ <;> rw [hd] at h
  · exact responded_of_execInit h
  · exact responded_of_bufferCommand InCommand.encBlock h
  · exact responded_of_bufferCommand InCommand.decBlock h
  · exact responded_of_execIllegal h

/-- Settles O37: a command that ends has responded with OK, or with an error entry, which writes no memory. -/
theorem responseIsOkOrUntouchedMemory : Obligations.ResponseIsOkOrUntouchedMemory := by
  intro s t d rest hidle hinputs hstep
  rw [step_of_issue hidle hinputs] at hstep
  have hresp := responded_of_runCommand hstep
  refine ⟨(ended_of_runCommand hstep).idle, hresp.keepsCommand.inputs, hresp.keepsCommand.cur, ?_⟩
  cases hresp with
  | error c hc heq =>
    subst heq
    exact .inr ⟨one_le_statusByte hc, statusByte_le c, rfl, rfl⟩
  | ok hstatus hctx _ => exact .inl ⟨hstatus, hctx⟩

end Sys2Proof.Machine

/-! The host while the core is BUSY or IDLE (60_exceptions.md R237, 70_reset_and_hazards.md R250 to R254, R260). -/

namespace Sys2Proof.Machine

/-! The core's own moves (R254). -/

section BufferMove

variable {load store : Nat → State → Result} {program : List Byte} {a len : Word32} {s t : State}
  (hload : ∀ x, InCommand (load x)) (hstore : ∀ x, InCommand (store x))

include hstore in
theorem keepsCommand_of_endBlock (h : endBlock store a len s = .next t) : KeepsCommand s t := by
  obtain ⟨u, hu, ht⟩ := andThen_eq_next.mp h
  have hsu := (hstore _).session hu
  split at ht <;> cases ht
  · exact (hsu.trans (sameSession_withSeq u _)).keepsCommand
  · exact hsu.keepsCommand_finishBlocks _

include hload hstore

theorem keepsCommand_of_microMove (h : microMove load store program a len s = .next t) : KeepsCommand s t := by
  by_cases hseq : s.seq.step < program.length
  · rw [microMove_eq hseq] at h
    obtain ⟨u, hu, h⟩ := andThen_eq_next.mp h
    obtain ⟨v, hv, h⟩ := andThen_eq_next.mp h
    have hsv : SameSession s v := (loadIfFirst_keeps hload hu).1.trans ((InCommand.runMicroOp _).session hv)
    split at h
    · cases h
      exact (hsv.trans (sameSession_withSeq v _)).keepsCommand
    · have hvt := keepsCommand_of_endBlock hstore h
      exact ⟨hvt.cur.trans hsv.cur, hvt.inputs.trans hsv.inputs⟩
  · rw [microMove, List.getElem?_eq_none (Nat.le_of_not_lt hseq)] at h
    cases h

theorem keepsCommand_of_bufferMove (h : bufferMove load store program a len s = .next t) : KeepsCommand s t := by
  unfold bufferMove at h
  split at h
  · split at h
    · cases h
      exact keepsCommand_raiseError s _
    · split at h
      · cases h
        exact (SameSession.refl s).keepsCommand_finishBlocks 0
      · exact keepsCommand_of_microMove hload hstore h
  · exact keepsCommand_of_microMove hload hstore h

end BufferMove

theorem keepsCommand_of_coreMove {s t : State} (h : coreMove s = .next t) : KeepsCommand s t := by
  unfold coreMove at h
  rcases decodeCommand_cases s.cur with ⟨ksz, a, b, hd⟩ | ⟨a, len, hd⟩ | ⟨a, len, hd⟩ | ⟨r, hd⟩ <;> rw [hd] at h
  · exact (responded_of_execInit h).keepsCommand
  · exact keepsCommand_of_bufferMove InCommand.encLoad InCommand.encStore h
  · exact keepsCommand_of_bufferMove InCommand.decLoad InCommand.decStore h
  · exact (responded_of_execIllegal h).keepsCommand

/-- A turn while BUSY takes up no command; only a reset writes CUR. -/
theorem cur_of_busyTurn {s t : State} (h : busyTurn s = .next t) (hreset : ∀ rest, s.inputs ≠ .reset :: rest) :
    t.cur = s.cur := by
  rcases busyTurn_cases s with ⟨rest, hr, -⟩ | ⟨a, v, rest, -, -, hb⟩ | ⟨a, rest, -, -, hb⟩ | ⟨rest, -, hb⟩ | hb
  · exact absurd hr (hreset rest)
  · exact (quiet_of_writeAt (hb.symm.trans h)).cur
  · exact (quiet_of_hostLoad (hb.symm.trans h)).cur
  · exact (keepsCommand_of_coreMove (hb.symm.trans h)).cur
  · exact (keepsCommand_of_coreMove (hb.symm.trans h)).cur

/-- Settles O55: before a command or a micro-op the turn is a move of the core, which leaves CUR and the inputs. -/
theorem busyCoreTakesNoCommand : Obligations.BusyCoreTakesNoCommand := by
  intro s t hbusy hstep
  have hturn : busyTurn s = .next t := by simpa only [step, takeTurn, hbusy] using hstep
  have hwaits (hmove : busyTurn s = coreMove s) : t.inputs = s.inputs :=
    (keepsCommand_of_coreMove (hmove.symm.trans hturn)).inputs
  refine ⟨cur_of_busyTurn hturn, fun d rest hinputs => ?_, fun u rest hinputs => ?_⟩
  · rcases hinputs with hinputs | hinputs <;> exact hwaits (by simp only [busyTurn, hinputs])
  · exact hwaits (by simp only [busyTurn, hinputs])

/-! IDLE without an input (60_exceptions.md R237). -/

/-- Settles O57: the turn of an idle core whose host does nothing. -/
theorem idleKeepsEverything : Obligations.IdleKeepsEverything := by
  intro s hidle hinputs
  simp only [step, takeTurn, idleTurn, hidle, hinputs]

/-! Reset (R250, R251). -/

theorem step_of_reset {s : State} {rest : List Input} (hinputs : s.inputs = .reset :: rest) :
    step s = .next (s.withInputs rest).resetNow := by
  cases hphase : s.phase with
  | idle => simp only [step, takeTurn, idleTurn, hphase, hinputs]
  | busy => simp only [step, takeTurn, busyTurn, hphase, hinputs]

theorem mem_resetNow_of_none {s : State} (h : interruptedBuffer s = none) : s.resetNow.mem = s.mem := by
  simp only [State.resetNow, h, State.restarted_mem]

theorem mem_resetNow_of_some {s : State} {g : Region} (h : interruptedBuffer s = some g) :
    s.resetNow.mem = s.mem.writeBytes g.base (freeBytes s.draws g.size).toList := by
  simp only [State.resetNow, h, State.restarted_mem]

theorem interruptedBuffer_of_idle {s : State} (hidle : s.phase = .idle) : interruptedBuffer s = none := by
  simp only [interruptedBuffer, hidle]

theorem interruptedBuffer_of_init {s : State} {ksz : BitVec 2} {a b : Word32} (hbusy : s.phase = .busy)
    (hd : decodeCommand s.cur = .instr (.init ksz a b)) : interruptedBuffer s = none := by
  simp only [interruptedBuffer, hbusy, hd]

theorem interruptedBuffer_of_buffer {s : State} {a len : Word32} (hbusy : s.phase = .busy)
    (hbuf : HasBuffer s.cur a len) : interruptedBuffer s = some (s.params.clip (bufRegion a len)) := by
  rcases hbuf with hd | hd <;> simp only [interruptedBuffer, hbusy, hd]

/-- Settles O58: the registers of a reset state, and an idle core has no buffer to lose. -/
theorem resetAtAnyTime : Obligations.ResetAtAnyTime := by
  intro s rest hinputs
  refine ⟨_, step_of_reset hinputs, ?_⟩
  have hmem (hidle : s.phase = .idle) : (s.withInputs rest).resetNow.mem = s.mem :=
    mem_resetNow_of_none (interruptedBuffer_of_idle hidle)
  obtain ⟨m, n, hreset⟩ := resetNow_registers (s.withInputs rest)
  rw [hreset] at hmem ⊢
  exact ⟨rfl, rfl, rfl, rfl, rfl, hmem, rfl, rfl, rfl, rfl, rfl, rfl, rfl, rfl⟩

/-- A buffer's bytes after its interruption: free values where the address space has them (log 13). -/
theorem read_resetNow_inside {s : State} {a len : Word32} {k : Nat} (hs : s.mem.wf = true)
    (h : interruptedBuffer s = some (s.params.clip (bufRegion a len))) (hk : k < len.toNat)
    (hspace : a.toNat + k < 2 ^ s.params.addrWidth) :
    s.resetNow.mem.read (a.toNat + k) = Config.freeByte (s.draws + k) := by
  have hsize : k < (s.params.clip (bufRegion a len)).size := by
    simp only [Params.clip, bufRegion]
    omega
  rw [mem_resetNow_of_some h]
  exact (Memory.read_writeBytes hs _ _ k (by simpa using hsize)).trans (by simp [freeBytes])

theorem read_resetNow_outside {s : State} {g : Region} {x : Nat} (h : interruptedBuffer s = some g)
    (hx : g.has x = false) : s.resetNow.mem.read x = s.mem.read x := by
  have hout : ¬(g.base ≤ x ∧ x < g.base + g.size) := fun hin =>
    Bool.false_ne_true (hx.symm.trans (Region.has_iff.mpr hin))
  rw [mem_resetNow_of_some h, Memory.read_writeBytes_other _ _ _ (by rw [Vector.length_toList]; omega)]

/-- Settles O59: what a reset writes is the part of the interrupted buffer that exists. -/
theorem resetWhileBusy : Obligations.ResetWhileBusy := by
  intro s rest hbusy hinputs hs
  refine ⟨_, step_of_reset hinputs, (ended_resetNow _).idle, ?_, fun ksz a b hd => ?_, fun a len hbuf => ?_⟩
  · obtain ⟨m, n, hreset⟩ := resetNow_registers (s.withInputs rest)
    rw [hreset]
    rfl
  · exact mem_resetNow_of_none (interruptedBuffer_of_init hbusy hd)
  · have hinterrupted := interruptedBuffer_of_buffer (s := s.withInputs rest) hbusy hbuf
    refine ⟨fun x hx => read_resetNow_outside hinterrupted ?_, fun k hk hspace =>
      read_resetNow_inside hs hinterrupted hk hspace⟩
    exact Bool.eq_false_iff.mpr fun hclip => Bool.false_ne_true (hx.symm.trans (clip_has_iff.mp hclip).1)

/-! Host accesses (R253, R260; log 12, log 18, log 26). -/

theorem refusedAt_one_of_admits {p : Params} {x : Nat} (h : p.admits x = true) : p.refusedAt x 1 = none := by
  simp [Params.refusedAt, h]

theorem refusedAt_one_of_not_admits {p : Params} {x : Nat} (h : p.admits x = false) : p.refusedAt x 1 = some x := by
  simp [Params.refusedAt, h]

theorem hostStore_of_admits {a : Word32} {s : State} (h : s.params.admits a.toNat = true) (v : Byte) :
    hostStore a v s = .next (s.withMem (s.mem.write a.toNat v)) :=
  writeAt_of_answered (refusedAt_one_of_admits h)

theorem hostStore_of_not_admits {a : Word32} {s : State} (h : s.params.admits a.toNat = false) (v : Byte) :
    hostStore a v s = .fault (.notAdmitted a.toNat) := by
  simp only [hostStore, writeAt, refusedAt_one_of_not_admits h]

theorem hostLoad_of_not_admits {a : Word32} {s : State} (h : s.params.admits a.toNat = false) :
    hostLoad a s = .fault (.notAdmitted a.toNat) :=
  readThen_of_refused (refusedAt_one_of_not_admits h)

theorem hostRead_eq_none {s : State} {a : Nat} : s.hostRead a = none ↔ s.mayTouch a = false := by
  cases h : s.mayTouch a <;> simp [State.hostRead, h]

section Access

variable {s : State} {a : Word32} {rest : List Input}

theorem inBusyRegion_of_free {x : Nat} (hfree : s.phase = .idle ∨ inBusyRegion s x = false)
    (hbusy : s.phase = .busy) : inBusyRegion s x = false :=
  hfree.resolve_left fun hidle => by cases hbusy.symm.trans hidle

/-- The running command does not guard the address: the host's access takes place now. -/
theorem step_of_store {v : Byte} (hinputs : s.inputs = .store a v :: rest)
    (hfree : s.phase = .idle ∨ inBusyRegion s a.toNat = false) : step s = hostStore a v (s.withInputs rest) := by
  cases hphase : s.phase with
  | idle => simp only [step, takeTurn, idleTurn, hphase, hinputs]
  | busy => simp [step, takeTurn, busyTurn, hphase, hinputs, inBusyRegion_of_free hfree hphase]

theorem step_of_load (hinputs : s.inputs = .load a :: rest)
    (hfree : s.phase = .idle ∨ inBusyRegion s a.toNat = false) : step s = hostLoad a (s.withInputs rest) := by
  cases hphase : s.phase with
  | idle => simp only [step, takeTurn, idleTurn, hphase, hinputs]
  | busy => simp [step, takeTurn, busyTurn, hphase, hinputs, inBusyRegion_of_free hfree hphase]

/-- The host waits with an access inside the running command's regions. -/
theorem step_of_guarded {v : Byte} {i : Input} (hi : i = .store a v ∨ i = .load a) (hinputs : s.inputs = i :: rest)
    (hbusy : s.phase = .busy) (hguarded : inBusyRegion s a.toNat = true) : step s = coreMove s := by
  rcases hi with rfl | rfl <;> simp only [step, takeTurn, busyTurn, hbusy, hinputs, hguarded, if_true]

theorem mayTouch_of_free {x : Nat} (hadmits : s.params.admits x = true)
    (hfree : s.phase = .idle ∨ inBusyRegion s x = false) : s.mayTouch x = true :=
  mayTouch_iff.mpr ⟨hadmits, inBusyRegion_of_free hfree⟩

end Access

/-- Settles O56: one case each for an access that takes place, that waits, and that the memory does not answer. -/
theorem hostAccesses : Obligations.HostAccesses := by
  intro s a v rest i hi hinputs
  refine ⟨fun hadmits hfree => ⟨?_, ?_, ?_⟩, fun hbusy hguarded => ⟨?_, step_of_guarded hi hinputs hbusy hguarded⟩,
    fun hrefused hfree => ⟨?_, ?_⟩, fun c hc => ?_⟩
  · exact hostRead_eq_some.mpr ⟨mayTouch_of_free hadmits hfree, rfl⟩
  · rintro rfl
    exact (step_of_store hinputs hfree).trans (hostStore_of_admits (s := s.withInputs rest) hadmits v)
  · rintro rfl
    exact (step_of_load hinputs hfree).trans (hostLoad_eq_next.mpr ⟨hadmits, rfl⟩)
  · exact hostRead_eq_none.mpr (by simp [State.mayTouch, hbusy, hguarded])
  · exact hostRead_eq_none.mpr (by simp [State.mayTouch, hrefused])
  · rcases hi with rfl | rfl
    · exact (step_of_store hinputs hfree).trans (hostStore_of_not_admits (s := s.withInputs rest) hrefused v)
    · exact (step_of_load hinputs hfree).trans (hostLoad_of_not_admits hrefused)
  · obtain ⟨hcell, htouch⟩ := mem_observe_dmem.mp hc
    exact ⟨hostRead_eq_some.mpr ⟨htouch, rfl⟩, (mayTouch_iff.mp htouch).2⟩

end Sys2Proof.Machine
